-- ==== Sys2Proof/Word.lean ====
section
/-! DEFINITION. The words of the block: bytes, nibbles and the 11-bit event word (00_scope.md R11; 30_encoding.md R91). -/

namespace Sys2Proof

/-- A byte: bit 0 is the least significant (00_scope.md R11). -/
abbrev Byte := BitVec 8

/-- A 4-bit value: a marker nibble, a status code or a step label (00_scope.md R6, 10_state.md R35, 30_encoding.md R99). -/
abbrev Nibble := BitVec 4

/-- The event word `kind[10:9] dir[8] data[7:0]` (30_encoding.md R91). -/
abbrev EventWord := BitVec 11

end Sys2Proof
end

