-- ==== Sys2Proof/Machine/Layout.lean ====
section
/-! DEFINITION. The numeric literals of the spec, one named constant each (93_implementation_defined.md U15), and the bit fields of bytes and
event words. -/

namespace Sys2Proof

/-- Page 0, the control page (10_state.md R31). -/
def ctrlPage : Byte := 0

/-- The control page's length: the layout ends at byte 6 (00_scope.md R5, 10_state.md R33). -/
def ctrlLen : Nat := 7

/-- Offset of `status` in the control page (10_state.md R33). -/
def offStatus : Byte := 0

/-- Offset of `txCommand` in the control page (10_state.md R33, R36). -/
def offTxCommand : Byte := 1

/-- Offset of the generic `command` byte in the control page (10_state.md R33, R37). -/
def offCommand : Byte := 2

/-- Offset of `params[0]` in the control page (10_state.md R33, R38). -/
def offParam0 : Byte := 3

/-- The first page index a driver page can have (10_state.md R31). -/
def firstDriverPage : Nat := 2

/-- Status code Success (10_state.md R35). -/
def codeSuccess : Nibble := 0

/-- Status code InProgress, the one code that is not terminal (10_state.md R35, 41_command_posting_status.md R165). -/
def codeInProgress : Nibble := 1

/-- Status code ErrorCommand (10_state.md R35). -/
def codeErrorCommand : Nibble := 4

/-- Status code ErrorArgument (10_state.md R35). -/
def codeErrorArgument : Nibble := 5

/-- Command code SetPage (30_encoding.md R96). -/
def cmdCodeSetPage : Byte := 1

/-- Command code SetDeviceAddress (30_encoding.md R96). -/
def cmdCodeSetDevAddr : Byte := 2

/-- Command code Reset (30_encoding.md R96). -/
def cmdCodeReset : Byte := 3

/-- The first extension command code (30_encoding.md R96). -/
def firstExtCode : Nat := 8

/-- The top nibble `b[7:4]`. -/
def hiNibble (b : Byte) : Nibble := b.extractLsb' 4 4

/-- The low nibble `b[3:0]`. -/
def loNibble (b : Byte) : Nibble := b.extractLsb' 0 4

/-- The byte with top nibble `h` and low nibble `l`. -/
def joinNibbles (h l : Nibble) : Byte := h ++ l

/-- `zext_8(v)` (00_scope.md R12). -/
def zext8 (v : Nibble) : Byte := v.setWidth 8

/-- The event word's field `kind[10:9]` (30_encoding.md R91). -/
def eventKind (w : EventWord) : BitVec 2 := w.extractLsb' 9 2

/-- The event word's bit `dir[8]`: true is a controller read (30_encoding.md R91). -/
def eventDir (w : EventWord) : Bool := w.getLsbD 8

/-- The event word's field `data[7:0]` (30_encoding.md R91). -/
def eventData (w : EventWord) : Byte := w.extractLsb' 0 8

/-- The command code `0b000001` followed by the two bits `low`, the row CMD.RESERVED (30_encoding.md R96). -/
def reservedCode (low : BitVec 2) : Byte := (0b000001 : BitVec 6) ++ low

/-- The low byte of a 16-bit identifier (20_memory.md R66). -/
def lowByte (v : BitVec 16) : Byte := v.extractLsb' 0 8

/-- The high byte of a 16-bit identifier (20_memory.md R66). -/
def highByte (v : BitVec 16) : Byte := v.extractLsb' 8 8

end Sys2Proof
end

