-- ==== Sys2Proof/Machine/Flags.lean ====
section
/-! DEFINITION. The status byte: code in bits 7:4, BUSERR in bit 1, BUSY in bit 0 (10_state.md R34), and its two updates. -/

namespace Sys2Proof

/-- The code nibble `status[7:4]` (10_state.md R34). -/
def statusCode (st : Byte) : Nibble := hiNibble st

/-- The flag BUSERR, `status[1]` (10_state.md R34). -/
def statusBusErr (st : Byte) : Bool := st.getLsbD 1

/-- The flag BUSY, `status[0]` (10_state.md R34). -/
def statusBusy (st : Byte) : Bool := st.getLsbD 0

/-- `(code << 4) | (status & 0x0F)` (41_command_posting_status.md R165). -/
def mergeStatus (code : Nibble) (st : Byte) : Byte := (zext8 code <<< 4) ||| (st &&& 0x0F)

/-- `status | REJECT_FLAGS` (41_command_posting_status.md R163). -/
def rejectStatus (flags : BitVec 2) (st : Byte) : Byte := st ||| flags.setWidth 8

end Sys2Proof
end

