-- ==== Sys2Proof/Machine/Memory.lean ====
section
/-! DEFINITION. The memory list: the cells that differ from the reset contents `d`, by rising address (log entry 16). Reads and writes of one byte
are the only width (20_memory.md R61). -/

namespace Sys2Proof.Memory

/-- The byte at address `a`: the listed one, or the reset contents. -/
def get (d : Nat → Byte) : List Host.Cell → Nat → Byte
  | [], a => d a
  | c :: m, a => if c.1 = a then c.2 else get d m a

/-- The list without the cells at address `a`. -/
def erase (m : List Host.Cell) (a : Nat) : List Host.Cell := m.filter fun c => c.1 != a

/-- The list with one more cell, put before the first one at a higher address. -/
def insert (c : Host.Cell) : List Host.Cell → List Host.Cell
  | [] => [c]
  | e :: m => if c.1 < e.1 then c :: e :: m else e :: insert c m

/-- Write a byte; writing the reset contents removes the cell. -/
def set (d : Nat → Byte) (m : List Host.Cell) (a : Nat) (v : Byte) : List Host.Cell :=
  if v = d a then erase m a else insert (a, v) (erase m a)

/-- The canonical form: addresses strictly rising, no cell equal to the reset contents. -/
def wf (d : Nat → Byte) : List Host.Cell → Bool
  | [] => true
  | c :: m => c.2 != d c.1 && m.all (fun e => c.1 < e.1) && wf d m

end Sys2Proof.Memory
end

