-- ==== Sys2Proof/Machine/Interface.lean ====
section
/-! DEFINITION. The data types at the block's interfaces: the protocol states, requests and their formats, turns, the reasons a request decodes to
nothing, and the outputs. -/

namespace Sys2Proof

/-- The seven protocol states of `sess.state`, an enumeration without numbers (10_state.md R21). -/
inductive ProtoState where
  /-- No transaction open and no command awaiting pickup. -/
  | idle
  /-- The address phase was acknowledged. -/
  | addressOrRead
  /-- An address byte selected a page the bus may not write. -/
  | readOnly
  /-- An address byte selected a writable page and no data byte has been stored yet. -/
  | readWriteFirstByte
  /-- At least one data byte has been stored in this transaction. -/
  | readWrite
  /-- A command was posted and the worker has not yet picked it up. -/
  | ioFinish
  /-- The address byte was out of range. -/
  | error
deriving DecidableEq, Repr

/-- Is a transaction open: neither Idle nor IoFinish (40_bus_state_machine.md R122). -/
def ProtoState.isOpen : ProtoState → Bool
  | .idle | .ioFinish => false
  | .addressOrRead | .readOnly | .readWriteFirstByte | .readWrite | .error => true

/-- The four protocol states in which a read is served (40_bus_state_machine.md R125). -/
def ProtoState.servesRead : ProtoState → Bool
  | .addressOrRead | .readOnly | .readWriteFirstByte | .readWrite => true
  | .idle | .ioFinish | .error => false

/-- The five formats of the opcode table (30_encoding.md, opening). -/
inductive Format where
  /-- Two bytes: `data[7:0]`, then `kind` and `dir` in the low three bits (30_encoding.md R91, log entry 7). -/
  | eventWord
  /-- One byte, the first byte written after an address phase (30_encoding.md R93). -/
  | addressByte
  /-- One byte, any later byte written (30_encoding.md R95). -/
  | dataByte
  /-- One byte, a command code (30_encoding.md R96). -/
  | commandByte
  /-- One byte with the step label in its low nibble, then one byte for each operand (30_encoding.md R99, log entry 7). -/
  | stepLabel
deriving DecidableEq, Repr

/-- One request to the block, as bytes of a format: what the next step fetches (log entry 4). -/
structure Request where
  /-- How the bytes are read. -/
  fmt : Format
  /-- The bytes, first byte first. -/
  bytes : List Byte
deriving DecidableEq, Repr

/-- Who moves when no request is placed: any agent may, or none for now (20_memory.md R71, 00_scope.md R15; log entry 5). -/
inductive Turn where
  /-- The main loop gives the worker its iteration (42_worker_commands.md R180). -/
  | worker
  /-- Another agent's request arrives. -/
  | deliver (r : Request)
  /-- No agent moves: the main loop does not call the worker (60_exceptions.md R236). -/
  | nobody
deriving DecidableEq, Repr, Inhabited

/-- Why a request decodes to no instruction; each is raised by `decode` and is safe, since no rule gives such a request a meaning. -/
inductive DecodeError where
  /-- Fewer bytes than the format, or the label, needs. Safe. -/
  | missingBytes
  /-- More bytes than the format, or the label, needs. Safe. -/
  | trailingBytes
  /-- A bit above the word's width is set. Safe. -/
  | strayBits
  /-- A step label 1101, 1110 or 1111 (30_encoding.md R99: unused). Safe. -/
  | unusedLabel
  /-- A data byte in a state whose written byte is no data byte (40_bus_state_machine.md R120). Safe. -/
  | noDataRow
deriving DecidableEq, Repr

/-- The bus engine's answer to an event (30_encoding.md R92). -/
inductive Response where
  /-- Nothing: the answer to a STOP, and to a step that is no bus event. -/
  | none
  /-- `respond ACK`. -/
  | ack
  /-- `respond NACK`. -/
  | nack
  /-- `respond DATA(v)`. -/
  | data (v : Byte)
deriving DecidableEq, Repr

/-- The outputs of one step (30_encoding.md R92, 00_scope.md R15; log entry 6). -/
structure Out where
  /-- The answer to the bus event. -/
  response : Response := .none
  /-- The `Wake` pulse (41_command_posting_status.md R168). -/
  wake : Bool := false
  /-- The byte of an `NvmWrite`, when there is one (20_memory.md R75). -/
  nvmWrite : Option Byte := none
  /-- `Restart()` (42_worker_commands.md R186). -/
  restart : Bool := false
  /-- The byte a DriverRead gives its driver (42_worker_commands.md R192). -/
  driverRead : Option Byte := none
  /-- The handler invoked, when one is (42_worker_commands.md R188). -/
  handler : Option Nat := none
deriving DecidableEq, Repr

end Sys2Proof
end

