-- ==== Sys2Proof/Config.lean ====
section
/-! DEFINITION. What an implementation fixes (00_scope.md R5 to R10), as plain data, and the free values: constants without a body, of which no
proof can know the value. -/

namespace Sys2Proof

/-- A location `(q, i)` of the register-file space (20_memory.md R60). -/
structure Loc where
  /-- The page index `q`. -/
  page : Byte
  /-- The offset `i`. -/
  off : Byte
deriving DecidableEq, Repr

/-- A driver page of the registry (00_scope.md R5, R7; 10_state.md R40). -/
structure DriverPage where
  /-- `init(p)`; its length is `len(p)`. -/
  init : List Byte
  /-- `rw(p)`: may the bus write the page; "defaults to true" (R5). -/
  rw : Bool := true
  /-- `TXCMD_LOC(p)`. -/
  txLoc : Option Loc
deriving DecidableEq, Repr

/-- An entry `(handler_k, mask_k, match_k)` of CmdTable; the handler is an oracle known by a number (00_scope.md R9). -/
structure CmdEntry where
  /-- Which handler. -/
  handler : Nat
  /-- `mask_k`. -/
  mask : Byte
  /-- `match_k`. -/
  pattern : Byte
deriving DecidableEq, Repr

/-- The configuration: the parameters of 00_scope.md R5 to R10. Pages 0 and 1 have their fixed length and flags by construction
(Machine/Registry.lean), so only what is open is stored. -/
structure Config where
  /-- Pages 2, 3, …, in the registry's order (R5, 10_state.md R31). -/
  drivers : List DriverPage
  /-- The bytes of `init(1)` after the five of 10_state.md R39 (93_implementation_defined.md U5). -/
  devInfoExtra : List Byte
  /-- `TXCMD_LOC(1)` (R7). -/
  devInfoTx : Option Loc
  /-- `CTRL_MARKER` (R6). -/
  marker : List Nibble
  /-- `DEFAULT_ADDR` (R8). -/
  defaultAddr : Byte
  /-- `NVM_FF_IS_UNPROGRAMMED` (R8). -/
  ffUnprogrammed : Bool
  /-- `CmdTable` (R9). -/
  cmdTable : List CmdEntry
  /-- `RESET_PAGE` (R10). -/
  resetPage : Byte
  /-- `REJECT_FLAGS` (R10). -/
  rejectFlags : BitVec 2
  /-- `MANUFACTURER_ID` (R10). -/
  manufacturerId : BitVec 16
  /-- `PRODUCT_ID` (R10). -/
  productId : BitVec 16
  /-- `VERSION` (R10). -/
  version : Byte
deriving DecidableEq, Repr

namespace Config

/-- Free value: what the `n`-th handler invocation returns, given the handler and the command code (42_worker_commands.md R189; log entry 13). -/
opaque handlerReturn : Nat → Nat → Byte → Nibble

/-- Free value: does the `n`-th handler invocation return, given the handler and the command code (42_worker_commands.md R188 corner case (c),
60_exceptions.md R236; log entry 14). -/
opaque handlerReturns : Nat → Nat → Byte → Bool

/-- Free value: who moves at the `n`-th step for which no request is placed; no fairness is built in (60_exceptions.md R236; log entry 5). -/
opaque turn : Nat → Turn

/-- Free value: `nvm` before the first boot (91_not_in_source.md N13; log entry 3). -/
opaque nvmAtFirstBoot : Byte

/-- Free value: `DEFAULT_ADDR` of the board (00_scope.md R8; log entry 2). -/
opaque boardDefaultAddr : Byte

/-- Free value: `MANUFACTURER_ID` of the board (00_scope.md R10; log entry 2). -/
opaque boardManufacturerId : BitVec 16

/-- Free value: `PRODUCT_ID` of the board (00_scope.md R10; log entry 2). -/
opaque boardProductId : BitVec 16

/-- Free value: `VERSION` of the board (00_scope.md R10; log entry 2). -/
opaque boardVersion : Byte

/-- Free value: `CmdTable` of the board (00_scope.md R9; log entry 2). -/
opaque boardCmdTable : List CmdEntry

/-- Free value: how many driver pages the board has, 0 to 253, so that `2 <= N <= 255` (00_scope.md R5; log entry 2). -/
opaque boardDriverCount : Fin 254

/-- Free value: `len(j + 2)` of the board, 0 to 255 (00_scope.md R5; log entry 2). -/
opaque boardDriverLen : Nat → Byte

/-- Free value: byte `i` of `init(j + 2)` of the board (00_scope.md R5; log entry 2). -/
opaque boardDriverInit : Nat → Nat → Byte

/-- Free value: a candidate for `TXCMD_LOC(j + 2)` of the board, none when it lies outside the registry (00_scope.md R7; log entry 2). -/
opaque boardDriverTx : Nat → Option (Byte × Byte)

/-- `len(p)` of the board, 0 for a page it has not. -/
def boardLen (p : Byte) : Nat :=
  match p.toNat with
  | 0 => ctrlLen
  | 1 => 5
  | j + 2 => if j < boardDriverCount.val then (boardDriverLen j).toNat else 0

/-- `TXCMD_LOC(j + 2)` of the board: the candidate, when it is a location. -/
def boardTxLoc (j : Nat) : Option Loc :=
  match boardDriverTx j with
  | some (q, i) => if i.toNat < boardLen q then some ⟨q, i⟩ else none
  | none => none

/-- The configuration the machine has at `State.reset`: the spec's default where it gives one (`CTRL_MARKER`, `NVM_FF_IS_UNPROGRAMMED`,
`RESET_PAGE`, `REJECT_FLAGS`, `DEVINFO_LEN`, `rw(p)` for `p >= 2`), a free value for every other parameter (log entry 2). -/
def board : Config where
  drivers := (List.range boardDriverCount.val).map fun j =>
    { init := (List.range (boardDriverLen j).toNat).map (boardDriverInit j)
      txLoc := boardTxLoc j }
  devInfoExtra := []
  devInfoTx := none
  marker := [0xF]
  defaultAddr := boardDefaultAddr
  ffUnprogrammed := false
  cmdTable := boardCmdTable
  resetPage := 0
  rejectFlags := 0b10
  manufacturerId := boardManufacturerId
  productId := boardProductId
  version := boardVersion

end Config

end Sys2Proof
end

