-- ==== Sys2Proof/Machine/Registry.lean ====
section
/-! DEFINITION. The register-file registry as a function of the configuration (10_state.md R30 to R32, R39, R40), the address of a location in the
memory list, and `LoadAddr()` (10_state.md R42). -/

namespace Sys2Proof

/-- `N = Count()` (00_scope.md R5, 10_state.md R32). -/
def Config.pageCount (c : Config) : Nat := c.drivers.length + firstDriverPage

/-- `init(1)`: manufacturer and product identifier, low byte first, then the version (10_state.md R39), then any extra bytes. -/
def Config.devInfo (c : Config) : List Byte :=
  [lowByte c.manufacturerId, highByte c.manufacturerId, lowByte c.productId, highByte c.productId, c.version] ++ c.devInfoExtra

/-- `init(p)`: seven zeros for the control page (10_state.md R45), R39's bytes for page 1, the driver's bytes for a driver page. -/
def Config.initOf (c : Config) (p : Nat) : List Byte :=
  match p with
  | 0 => List.replicate ctrlLen 0
  | 1 => c.devInfo
  | j + 2 => ((c.drivers[j]?).map DriverPage.init).getD []

/-- `len(p)`; 0 for a page that is not registered. -/
def Config.len (c : Config) (p : Byte) : Nat := (c.initOf p.toNat).length

/-- `rw(p)`: true for the control page, false for page 1, the driver's flag otherwise (00_scope.md R5, 10_state.md R31). -/
def Config.rw (c : Config) (p : Byte) : Bool :=
  match p.toNat with
  | 0 => true
  | 1 => false
  | j + 2 => ((c.drivers[j]?).map DriverPage.rw).getD false

/-- `TXCMD_LOC(p)` for `p >= 1` (00_scope.md R7). -/
def Config.txCmdLoc (c : Config) (p : Byte) : Option Loc :=
  match p.toNat with
  | 0 => none
  | 1 => c.devInfoTx
  | j + 2 => (c.drivers[j]?).bind DriverPage.txLoc

/-- The byte address byte `b` carries the marker when its top nibble is a member of `CTRL_MARKER` (00_scope.md R6). -/
def Config.isMarker (c : Config) (m : Nibble) : Bool := c.marker.contains m

/-- The key of location `(p, i)` in the memory list (log entry 16). -/
def locAddr (p i : Byte) : Nat := 256 * p.toNat + i.toNat

/-- What an unlisted address reads as: the reset contents `init(p)[i]` (10_state.md R45; log entry 16). -/
def Config.initByte (c : Config) (a : Nat) : Byte := ((c.initOf (a / 256))[a % 256]?).getD 0

/-- `LoadAddr()` with `v = NvmRead()` (10_state.md R42). -/
def Config.loadAddr (c : Config) (v : Byte) : Byte :=
  if v.getLsbD 0 = false then c.defaultAddr
  else if c.ffUnprogrammed && v == 0xFF then c.defaultAddr
  else v

/-- A command-field location is none or lies inside a registered buffer (00_scope.md R7, 70_reset_and_hazards.md R253). -/
abbrev Config.TxLocOk (c : Config) (l : Option Loc) : Prop := ∀ x ∈ l, x.off.toNat < c.len x.page

/-- The constraints the spec puts on the parameters: at most 255 pages of at most 255 bytes (R5), a non-empty marker set of nibbles with bit 3
set (R6), command fields inside the registry (R7), `RESET_PAGE < N` and BUSERR among `REJECT_FLAGS` (R10). -/
abbrev Config.Valid (c : Config) : Prop :=
  c.pageCount ≤ 255 ∧
  c.devInfo.length ≤ 255 ∧
  (∀ d ∈ c.drivers, d.init.length ≤ 255) ∧
  c.marker ≠ [] ∧
  (∀ m ∈ c.marker, m.getLsbD 3 = true) ∧
  c.TxLocOk c.devInfoTx ∧
  (∀ d ∈ c.drivers, c.TxLocOk d.txLoc) ∧
  c.resetPage.toNat < c.pageCount ∧
  c.rejectFlags.getLsbD 1 = true

end Sys2Proof
end

