-- ==== Sys2Proof/Machine/Operands.lean ====
section
/-! DEFINITION. The operand forms: the address byte's location (20_memory.md R62), the command field of a page (41_command_posting_status.md R160)
and the operands of the device-address command (42_worker_commands.md R185). -/

namespace Sys2Proof

/-- `translate(b)`: marker, control page and low nibble; otherwise the sticky page and the whole byte (20_memory.md R62). -/
def Config.translate (c : Config) (stickyPage b : Byte) : Byte × Byte :=
  if c.isMarker (hiNibble b) then (ctrlPage, zext8 (loNibble b)) else (stickyPage, b)

/-- `CmdFieldLoc(ap)` (41_command_posting_status.md R160). -/
def Config.cmdFieldLoc (c : Config) (ap : Byte) : Option Loc :=
  if ap = ctrlPage then some ⟨ctrlPage, offCommand⟩ else c.txCmdLoc ap

/-- `0 < param < N` (42_worker_commands.md R184). -/
def Config.pageArgOk (c : Config) (param : Byte) : Bool := 0 < param.toNat && param.toNat < c.pageCount

/-- A device address is acceptable when it is neither zero nor even (42_worker_commands.md R185). -/
def addrArgOk (param : Byte) : Bool := !(param == 0 || param.getLsbD 0 == false)

/-- Is the table entry selected for the command code (30_encoding.md R98). -/
def CmdEntry.selects (e : CmdEntry) (cmd : Byte) : Bool := (e.mask &&& cmd) == e.pattern

end Sys2Proof
end

