-- ==== Sys2Proof/Machine/State.lean ====
section
/-! DEFINITION. The state of the block, its stops, its record updates and its value after reset (10_state.md R20 to R45). -/

namespace Sys2Proof.Machine

/-- The bus session registers (10_state.md R21 to R25). -/
structure Sess where
  /-- `sess.state` (R21). -/
  state : ProtoState
  /-- `sess.page`, the sticky page (R22). -/
  page : Byte
  /-- `sess.activePage` (R23). -/
  activePage : Byte
  /-- `sess.offset`, the cursor (R24). -/
  offset : Byte
  /-- `sess.command`, scratch (R25). -/
  command : Byte
deriving DecidableEq, Repr

/-- The command context (10_state.md R26 to R29). -/
structure Ctx where
  /-- `ctx.command`, 0 means idle (R26). -/
  command : Byte
  /-- `ctx.lastCommand` (R27). -/
  lastCommand : Byte
  /-- `ctx.lastAddress`, a page index (R28). -/
  lastAddress : Byte
deriving DecidableEq, Repr

/-- `w.phase` (10_state.md R43). -/
inductive Phase where
  /-- Waiting for a posted command. -/
  | poll
  /-- Picked up, status not yet marked. -/
  | mark
  /-- Executing. -/
  | exec
  /-- Result ready. -/
  | report
deriving DecidableEq, Repr

/-- The worker-local registers (10_state.md R43). -/
structure Worker where
  /-- `w.phase`. -/
  phase : Phase
  /-- `w.cmd`, the code picked up. -/
  cmd : Byte
  /-- `w.result`, the status code to report. -/
  result : Nibble
  /-- `w.k`, the next table entry. -/
  k : Nat
  /-- `w.hit`, has an entry matched. -/
  hit : Bool
  /-- The model's own: the worker is inside a handler that never returns (60_exceptions.md R236; log entry 14). -/
  hung : Bool
deriving DecidableEq, Repr

/-- The state: what 10_state.md R20 names, then the model's own fields (INVENTORY.md, State). -/
structure State where
  /-- The configuration, which no step changes (log entry 1). -/
  cfg : Config
  /-- `sess.*`. -/
  sess : Sess
  /-- `ctx.*`. -/
  ctx : Ctx
  /-- `buf[p]`: the bytes that differ from `init(p)` (log entry 16). -/
  mem : List Host.Cell
  /-- `nvm` (10_state.md R41). -/
  nvm : Byte
  /-- `devAddr` (10_state.md R42). -/
  devAddr : Byte
  /-- `w.*`. -/
  w : Worker
  /-- The outputs of the last step (log entry 6). -/
  out : Out
  /-- The requests of the agents in the order they move (log entry 4). -/
  queue : List Request
  /-- How many handler invocations have been drawn (log entries 13 and 14). -/
  draws : Nat
  /-- How many turns have been drawn (log entry 5). -/
  turns : Nat
deriving DecidableEq, Repr

/-- Why the machine faults. -/
inductive Fault where
  /-- An access to an offset at or past the page's length, raised by `atLocation`: `MemRead` and `MemWrite` are defined only for
  `i < len(p)` (20_memory.md R61). Safe: unreachable from reset (10_state.md R46). -/
  | noSuchLocation
deriving DecidableEq, Repr

/-- Why the machine refuses a step. -/
inductive Refusal where
  /-- Raised by `exec` for an instruction without a meaning. Safe. -/
  | notModelled (mnemonic : String)
  /-- Raised by `fetch`: the request is no encoding of an instruction. Safe. -/
  | undecodable (e : DecodeError)
  /-- Raised by EV.NONE: "not an event ... refused: the model has no step" (30_encoding.md R100). Safe. -/
  | notAnEvent
  /-- Raised by EV.DATA.W in Idle or IoFinish and by EV.DATA.R in Idle, IoFinish or Error: `raise Refuse(UnsequencedDataEvent)`
  (40_bus_state_machine.md R131). Safe. -/
  | unsequencedDataEvent
  /-- Raised by ADDR.* and DATA.* where the protocol state or the marker set selects another row (40_bus_state_machine.md R120). Safe. -/
  | byteRowNotSelected
  /-- Raised by POST.* and CMD.NONE where the end of a transaction has another outcome (41_command_posting_status.md R161). Safe. -/
  | postNotSelected
  /-- Raised by CMD.* where the worker is not executing that code (42_worker_commands.md R183). Safe. -/
  | commandNotSelected
  /-- Raised by W.* in another phase of the worker (42_worker_commands.md R180). Safe. -/
  | workerStepNotSelected
  /-- Raised by DRV.WRITE outside the driver pages: "A driver does not write" there (42_worker_commands.md R192). Safe. -/
  | notADriverMove
  /-- `Get(i)` with `i >= Count()`, "a programming error" (10_state.md R32, 93_implementation_defined.md U6: refuse); raised wherever a page
  index is looked up. Safe: from reset only a DRV.READ of such a page raises it (10_state.md R46). -/
  | noSuchPage
deriving DecidableEq, Repr

/-- What a meaning answers. -/
abbrev Result := Host.Outcome State Fault Refusal

/-- Replace `sess`. -/
def State.withSess (s : State) (x : Sess) : State := { s with sess := x }

/-- Replace `ctx`. -/
def State.withCtx (s : State) (x : Ctx) : State := { s with ctx := x }

/-- Replace `mem`. -/
def State.withMem (s : State) (x : List Host.Cell) : State := { s with mem := x }

/-- Replace `nvm`. -/
def State.withNvm (s : State) (x : Byte) : State := { s with nvm := x }

/-- Replace `devAddr`. -/
def State.withDevAddr (s : State) (x : Byte) : State := { s with devAddr := x }

/-- Replace `w`. -/
def State.withW (s : State) (x : Worker) : State := { s with w := x }

/-- Replace `out`. -/
def State.withOut (s : State) (x : Out) : State := { s with out := x }

/-- Replace `queue`. -/
def State.withQueue (s : State) (x : List Request) : State := { s with queue := x }

/-- Replace `draws`. -/
def State.withDraws (s : State) (x : Nat) : State := { s with draws := x }

/-- Replace `turns`. -/
def State.withTurns (s : State) (x : Nat) : State := { s with turns := x }

/-- The state after reset of a block with configuration `c` whose non-volatile byte holds `nvm` (10_state.md R45). -/
def State.powerOn (c : Config) (nvm : Byte) : State where
  cfg := c
  sess := { state := .idle, page := c.resetPage, activePage := 0, offset := 0, command := 0 }
  ctx := { command := 0, lastCommand := 0, lastAddress := 0 }
  mem := []
  nvm := nvm
  devAddr := c.loadAddr nvm
  w := { phase := .poll, cmd := 0, result := 0, k := 0, hit := false, hung := false }
  out := {}
  queue := []
  draws := 0
  turns := 0

/-- The machine right after its first reset: the board's configuration and a free non-volatile byte (log entries 2 and 3). -/
def State.reset : State := State.powerOn Config.board Config.nvmAtFirstBoot

end Sys2Proof.Machine
end

