-- ==== Sys2Proof/Machine/Ops.lean ====
section
/-! DEFINITION. The shared operations of the meanings: byte access, cursor, responses, `Merge`, the Error state and the return from it, reset. -/

namespace Sys2Proof.Machine

/-- `buf[p][i]`. -/
def State.byte (s : State) (p i : Byte) : Byte := Memory.get s.cfg.initByte s.mem (locAddr p i)

/-- `buf[p][i] <- v`. -/
def State.setByte (s : State) (p i v : Byte) : State := s.withMem (Memory.set s.cfg.initByte s.mem (locAddr p i) v)

/-- Go on only where the location exists: a page past the registry is refused (93_implementation_defined.md U6), an offset past the page
faults (20_memory.md R61). -/
def atLocation (s : State) (p i : Byte) (k : Result) : Result :=
  if s.cfg.pageCount ≤ p.toNat then .refused .noSuchPage
  else if s.cfg.len p ≤ i.toNat then .fault .noSuchLocation
  else k

/-- Run `f` on the state an operation answers, if it answers one. -/
def andThen (r : Result) (f : State → Result) : Result :=
  match r with
  | .next s => f s
  | .fault x => .fault x
  | .refused x => .refused x

/-- Begin a step: nothing output yet (log entry 6). -/
def State.quiet (s : State) : State := s.withOut {}

/-- `respond r` (30_encoding.md R92). -/
def State.respond (s : State) (r : Response) : State := s.withOut { s.out with response := r }

/-- `sess.state <- x`. -/
def State.setProto (s : State) (x : ProtoState) : State := s.withSess { s.sess with state := x }

/-- `w.result <- code; w.phase <- Report`. -/
def State.finish (s : State) (code : Nibble) : State := s.withW { s.w with result := code, phase := .report }

/-- The status byte `buf[0][0]` (10_state.md R33). -/
def State.status (s : State) : Byte := s.byte ctrlPage offStatus

/-- `params[0] = buf[0][3]`, read when the command executes (10_state.md R38). -/
def State.param0 (s : State) : Byte := s.byte ctrlPage offParam0

/-- `Advance()` (20_memory.md R65). -/
def State.advance (s : State) : State :=
  s.withSess
    { s.sess with offset := if s.sess.offset.toNat + 1 = s.cfg.len s.sess.activePage then 0 else s.sess.offset + 1 }

/-- `Merge(code)`, one atomic step (41_command_posting_status.md R165, R166). -/
def State.merge (s : State) (code : Nibble) : State :=
  let t := s.setByte ctrlPage offStatus (mergeStatus code s.status)
  if code = codeInProgress then t
  else t.withCtx { t.ctx with lastCommand := t.ctx.command, command := 0 }

/-- Entering the block's one fault state: nothing is saved, only `sess.state` changes, and the byte is NACKed (60_exceptions.md R224). -/
def State.enterError (s : State) : State := (s.setProto .error).respond .nack

/-- Return from it, and the end of any transaction that stored nothing (60_exceptions.md R224, 40_bus_state_machine.md R124). -/
def State.endQuietly (s : State) : State := s.setProto .idle

/-- The byte is refused and nothing else happens (40_bus_state_machine.md R129, R130). -/
def State.nackByte (s : State) : State := s.quiet.respond .nack

/-- The reset operation: every element at its value after reset, `nvm` kept; the configuration, the pending requests and the counters of free
values are not the block's to reset (70_reset_and_hazards.md R251, R252). -/
def State.restart (s : State) : State :=
  (((State.powerOn s.cfg s.nvm).withQueue s.queue).withDraws s.draws).withTurns s.turns

end Sys2Proof.Machine
end

