-- ==== Sys2Proof/Machine/BusBytes.lean ====
section
/-! DEFINITION. Written bytes: the address byte (40_bus_state_machine.md R126) and the data bytes (R127 to R130), with the rows ADDR.* and DATA.*. -/

namespace Sys2Proof.Machine

/-- The address byte, once translated to `(ap, a)`: bounds check, then the write flag (40_bus_state_machine.md R126, 20_memory.md R63, R64). -/
def selectLocation (ap a : Byte) (s : State) : Result :=
  if s.cfg.pageCount ≤ ap.toNat then .refused .noSuchPage
  else if s.cfg.len ap ≤ a.toNat then .next s.quiet.enterError
  else
    .next
      ((s.quiet.withSess
          { s.sess with
            activePage := ap, offset := a
            state := if s.cfg.rw ap then .readWriteFirstByte else .readOnly }).respond .ack)

/-- `DATA.W(b)` in AddressOrRead (40_bus_state_machine.md R126). -/
def addressByte (b : Byte) (s : State) : Result :=
  selectLocation (s.cfg.translate s.sess.page b).1 (s.cfg.translate s.sess.page b).2 s

/-- Store `b` at the cursor, advance, be in `ReadWrite`, ACK (40_bus_state_machine.md R127, R128). -/
def storeByte (b : Byte) (s : State) : Result :=
  atLocation s s.sess.activePage s.sess.offset
    (.next ((((s.quiet.setByte s.sess.activePage s.sess.offset b).advance).setProto .readWrite).respond .ack))

/-- ADDR.CTRL (40_bus_state_machine.md R126): the control page and the low nibble. -/
def execAddrCtrl (marker off4 : Nibble) (s : State) : Result :=
  if s.sess.state = .addressOrRead ∧ s.cfg.isMarker marker = true then selectLocation ctrlPage (zext8 off4) s
  else .refused .byteRowNotSelected

/-- ADDR.PAGE (40_bus_state_machine.md R126): the sticky page and the whole byte. -/
def execAddrPage (off8 : Byte) (s : State) : Result :=
  if s.sess.state = .addressOrRead ∧ s.cfg.isMarker (hiNibble off8) = false then selectLocation s.sess.page off8 s
  else .refused .byteRowNotSelected

/-- DATA.FIRST (40_bus_state_machine.md R127). -/
def execDataFirst (b : Byte) (s : State) : Result :=
  if s.sess.state = .readWriteFirstByte then storeByte b s else .refused .byteRowNotSelected

/-- DATA.NEXT (40_bus_state_machine.md R128). -/
def execDataNext (b : Byte) (s : State) : Result :=
  if s.sess.state = .readWrite then storeByte b s else .refused .byteRowNotSelected

/-- DATA.RO (40_bus_state_machine.md R129): the byte is refused, whatever it is. -/
def execDataRo (_b : Byte) (s : State) : Result :=
  if s.sess.state = .readOnly then .next s.nackByte else .refused .byteRowNotSelected

/-- DATA.ERR (40_bus_state_machine.md R130): the byte is refused, whatever it is. -/
def execDataErr (_b : Byte) (s : State) : Result :=
  if s.sess.state = .error then .next s.nackByte else .refused .byteRowNotSelected

end Sys2Proof.Machine
end

