-- ==== Sys2Proof/Machine/Posting.lean ====
section
/-! DEFINITION. Posting: the end of a transaction (40_bus_state_machine.md R124), `PostFromActivePage()` with its outcomes
(41_command_posting_status.md R160 to R164), and the rows POST.*. -/

namespace Sys2Proof.Machine

/-- The four outcomes of the posting part of a STOP or restart (30_encoding.md R99). -/
inductive PostOutcome where
  /-- The page has no command field (R161). -/
  | noField
  /-- The field holds 0 (R164). -/
  | none
  /-- The command is posted (R162). -/
  | accept
  /-- A command is in flight already (R163). -/
  | reject
deriving DecidableEq, Repr

/-- What a value `c` read from a command field leads to: the zero test, then the in-flight test (41_command_posting_status.md R161). -/
def State.outcomeOf (s : State) (c : Byte) : PostOutcome :=
  if c = 0 then .none else if s.ctx.command ≠ 0 then .reject else .accept

/-- The outcome of `PostFromActivePage()`. -/
def State.postOutcome (s : State) : PostOutcome :=
  match s.cfg.cmdFieldLoc s.sess.activePage with
  | Option.none => .noField
  | some l => s.outcomeOf (s.byte l.page l.off)

/-- `NoPost()` (41_command_posting_status.md R164). -/
def State.noPost (s : State) : State := s.setProto .idle

/-- `AcceptPost(c)` (41_command_posting_status.md R162), with the Wake pulse of R168. -/
def State.acceptPost (s : State) (c : Byte) : State :=
  let t := s.merge codeInProgress
  let t := t.withCtx { t.ctx with command := c, lastAddress := t.sess.activePage }
  let t := t.setProto .ioFinish
  t.withOut { t.out with wake := true }

/-- `RejectPost(c)` (41_command_posting_status.md R163). -/
def State.rejectPost (s : State) : State :=
  (s.setByte ctrlPage offStatus (rejectStatus s.cfg.rejectFlags s.status)).setProto .idle

/-- What follows the read and clear of a field that held `c`. -/
def State.postCode (s : State) (c : Byte) : State :=
  match s.outcomeOf c with
  | .noField | .none => s.noPost
  | .accept => s.acceptPost c
  | .reject => s.rejectPost

/-- The field at `l` is read and cleared, and `sess.command` takes its value (41_command_posting_status.md R161). -/
def State.takeCommand (s : State) (l : Loc) : State :=
  (s.setByte l.page l.off 0).withSess { s.sess with command := s.byte l.page l.off }

/-- `PostFromActivePage()` (41_command_posting_status.md R161). -/
def postFromActivePage (s : State) : Result :=
  if s.cfg.pageCount ≤ s.sess.activePage.toNat then .refused .noSuchPage
  else
    match s.cfg.cmdFieldLoc s.sess.activePage with
    | Option.none => .next s.endQuietly
    | some l => atLocation s l.page l.off (.next ((s.takeCommand l).postCode (s.byte l.page l.off)))

/-- `EndTransaction()` (40_bus_state_machine.md R124). -/
def endTransaction (s : State) : Result :=
  if s.sess.state = .readWrite then postFromActivePage s else .next s.endQuietly

/-- The end of a write transaction that stored a byte, where its outcome is `o` (log entry 11). -/
def postAs (o : PostOutcome) (s : State) : Result :=
  if s.sess.state = .readWrite ∧ s.postOutcome = o then postFromActivePage s.quiet else .refused .postNotSelected

/-- POST.NOFIELD (41_command_posting_status.md R161). -/
def execPostNoField (s : State) : Result := postAs .noField s

/-- POST.NONE (41_command_posting_status.md R164). -/
def execPostNone (s : State) : Result := postAs .none s

/-- POST.ACCEPT (41_command_posting_status.md R162). -/
def execPostAccept (s : State) : Result := postAs .accept s

/-- POST.REJECT (41_command_posting_status.md R163). -/
def execPostReject (s : State) : Result := postAs .reject s

end Sys2Proof.Machine
end

