-- ==== Sys2Proof/Machine/BusEvents.lean ====
section
/-! DEFINITION. The bus engine's steps, one for each event (40_bus_state_machine.md R120 to R131): the rows EV.*. -/

namespace Sys2Proof.Machine

/-- The address phase proper: NACK while a command awaits pickup, ACK otherwise (40_bus_state_machine.md R121). -/
def answerAddress (s : State) : Result :=
  if s.sess.state = .ioFinish then .next (s.respond .nack)
  else .next ((s.setProto .addressOrRead).respond .ack)

/-- `ADDR(dir)`: end the open transaction first, then the address phase (40_bus_state_machine.md R121, R122). The direction is not stored. -/
def addressPhase (s : State) : Result :=
  if s.sess.state.isOpen then andThen (endTransaction s.quiet) answerAddress else answerAddress s.quiet

/-- EV.STOP (40_bus_state_machine.md R123). -/
def execEvStop (s : State) : Result :=
  if s.sess.state.isOpen then endTransaction s.quiet else .next s.quiet

/-- EV.ADDR.W (40_bus_state_machine.md R121). -/
def execEvAddrW (s : State) : Result := addressPhase s

/-- EV.ADDR.R (40_bus_state_machine.md R121). -/
def execEvAddrR (s : State) : Result := addressPhase s

/-- EV.DATA.W: dispatch on `sess.state` (40_bus_state_machine.md R120). -/
def execEvDataW (b : Byte) (s : State) : Result :=
  match s.sess.state with
  | .addressOrRead => addressByte b s
  | .readWriteFirstByte => storeByte b s
  | .readWrite => storeByte b s
  | .readOnly => .next s.nackByte
  | .error => .next s.nackByte
  | .idle => .refused .unsequencedDataEvent
  | .ioFinish => .refused .unsequencedDataEvent

/-- Deliver the byte at the cursor and advance (40_bus_state_machine.md R125). -/
def deliverByte (s : State) : Result :=
  atLocation s s.sess.activePage s.sess.offset
    (.next (s.quiet.advance.respond (.data (s.byte s.sess.activePage s.sess.offset))))

/-- EV.DATA.R (40_bus_state_machine.md R125, R131). -/
def execEvDataR (s : State) : Result :=
  if s.sess.state.servesRead then deliverByte s else .refused .unsequencedDataEvent

/-- EV.NONE: not an event, refused (30_encoding.md R100). -/
def execEvNone (_s : State) : Result := .refused .notAnEvent

end Sys2Proof.Machine
end

