-- ==== Sys2Proof/Machine/DriverMoves.lean ====
section
/-! DEFINITION. The moves of a driver (42_worker_commands.md R192; 41_command_posting_status.md R167) and reset (70_reset_and_hazards.md R251): the
rows DRV.* and RESET. -/

namespace Sys2Proof.Machine

/-- DRV.WRITE: `DriverWrite(p, i, v)`, `2 <= p < N`, `i < len(p)` (42_worker_commands.md R192). -/
def execDrvWrite (p i v : Byte) (s : State) : Result :=
  if firstDriverPage ≤ p.toNat ∧ p.toNat < s.cfg.pageCount ∧ i.toNat < s.cfg.len p then .next (s.quiet.setByte p i v)
  else .refused .notADriverMove

/-- DRV.READ: `DriverRead(p, i)`, no effect on the block (42_worker_commands.md R192). -/
def execDrvRead (p i : Byte) (s : State) : Result :=
  atLocation s p i (.next (s.withOut { driverRead := some (s.byte p i) }))

/-- DRV.TXCMD: `DriverWriteTxCommand(v)` (42_worker_commands.md R192). -/
def execDrvTxCmd (v : Byte) (s : State) : Result := .next (s.quiet.setByte ctrlPage offTxCommand v)

/-- DRV.STATUSUPDATE: `StatusUpdate(code)`, unchecked (41_command_posting_status.md R167). -/
def execDrvStatusUpdate (code : Nibble) (s : State) : Result := .next (s.quiet.merge code)

/-- RESET (70_reset_and_hazards.md R251). -/
def execReset (s : State) : Result := .next s.restart

end Sys2Proof.Machine
end

