-- ==== Sys2Proof/Machine/Commands.lean ====
section
/-! DEFINITION. What the command codes do (42_worker_commands.md R184 to R188; 41_command_posting_status.md R164): the rows CMD.*. -/

namespace Sys2Proof.Machine

/-- SetPage(param0) (42_worker_commands.md R184). -/
def State.setPage (s : State) : State :=
  if s.cfg.pageArgOk s.param0 then (s.withSess { s.sess with page := s.param0 }).finish codeSuccess
  else s.finish codeErrorArgument

/-- The non-volatile write of SetDeviceAddress, made only if the byte changes (42_worker_commands.md R185). -/
def State.storeAddr (s : State) (param : Byte) : State :=
  if s.nvm = param then s else (s.withNvm param).withOut { s.out with nvmWrite := some param }

/-- `devAddr <- LoadAddr()` (10_state.md R42). -/
def State.reloadAddr (s : State) : State := s.withDevAddr (s.cfg.loadAddr s.nvm)

/-- SetDeviceAddress(param0) (42_worker_commands.md R185). -/
def State.setDevAddr (s : State) : State :=
  if addrArgOk s.param0 then ((s.storeAddr s.param0).reloadAddr).finish codeSuccess
  else s.finish codeErrorArgument

/-- Reset: `Restart()`, no report (42_worker_commands.md R186). -/
def State.commandReset (s : State) : State :=
  let t := s.restart
  t.withOut { t.out with restart := true }

/-- A reserved code: ErrorCommand, the table is not consulted (42_worker_commands.md R187). -/
def State.reservedCommand (s : State) : State := s.finish codeErrorCommand

/-- The worker after invoking the handler of entry `e`: with its return and at the next entry, or inside it for good
(42_worker_commands.md R188, R189; log entries 13 and 14). -/
def State.afterHandler (s : State) (e : CmdEntry) : Worker :=
  if Config.handlerReturns s.draws e.handler s.w.cmd then
    { s.w with result := Config.handlerReturn s.draws e.handler s.w.cmd, hit := true, k := s.w.k + 1 }
  else { s.w with hung := true }

/-- Invoke the handler of entry `e`: one draw (42_worker_commands.md R188, R189). -/
def State.invoke (s : State) (e : CmdEntry) : State :=
  ((s.withW (s.afterHandler e)).withDraws (s.draws + 1)).withOut { s.out with handler := some e.handler }

/-- `w.k <- w.k + 1`. -/
def State.nextEntry (s : State) : State := s.withW { s.w with k := s.w.k + 1 }

/-- One step of the table scan: the entry at `w.k`, or the closing step (42_worker_commands.md R188); inside a handler that never returns
the worker does nothing more (60_exceptions.md R236). -/
def State.extStep (s : State) : State :=
  if s.w.hung then s
  else
    match s.cfg.cmdTable[s.w.k]? with
    | some e => if e.selects s.w.cmd then s.invoke e else s.nextEntry
    | none => if s.w.hit then s.withW { s.w with phase := .report } else s.finish codeErrorCommand

/-- Dispatch by `w.cmd` (42_worker_commands.md R183). -/
def State.runCommand (s : State) : State :=
  if s.w.cmd = cmdCodeSetPage then s.setPage
  else if s.w.cmd = cmdCodeSetDevAddr then s.setDevAddr
  else if s.w.cmd = cmdCodeReset then s.commandReset
  else if s.w.cmd.toNat < firstExtCode then s.reservedCommand
  else s.extStep

/-- The worker executes the code `c` now. -/
abbrev State.executing (s : State) (c : Byte) : Prop := s.w.phase = .exec ∧ s.w.cmd = c

/-- CMD.NONE: the value 0 in the command field at the end of a write transaction is never posted (41_command_posting_status.md R164; log entry
12). -/
def execCmdNone (s : State) : Result :=
  if s.sess.state = .readWrite ∧ s.postOutcome = .none then postFromActivePage s.quiet else .refused .postNotSelected

/-- CMD.SETPAGE (42_worker_commands.md R184). -/
def execCmdSetPage (s : State) : Result :=
  if s.executing cmdCodeSetPage then .next s.quiet.setPage else .refused .commandNotSelected

/-- CMD.SETDEVADDR (42_worker_commands.md R185). -/
def execCmdSetDevAddr (s : State) : Result :=
  if s.executing cmdCodeSetDevAddr then .next s.quiet.setDevAddr else .refused .commandNotSelected

/-- CMD.RESET (42_worker_commands.md R186). -/
def execCmdReset (s : State) : Result :=
  if s.executing cmdCodeReset then .next s.quiet.commandReset else .refused .commandNotSelected

/-- CMD.RESERVED (42_worker_commands.md R187). -/
def execCmdReserved (low : BitVec 2) (s : State) : Result :=
  if s.executing (reservedCode low) then .next s.quiet.reservedCommand else .refused .commandNotSelected

/-- CMD.EXT (42_worker_commands.md R188). -/
def execCmdExt (code : Byte) (s : State) : Result :=
  if s.executing code ∧ firstExtCode ≤ code.toNat then .next s.quiet.extStep else .refused .commandNotSelected

end Sys2Proof.Machine
end

