-- ==== Sys2Proof/Machine/WorkerSteps.lean ====
section
/-! DEFINITION. The worker's steps (42_worker_commands.md R180 to R183, R190): the rows W.*. -/

namespace Sys2Proof.Machine

/-- W.PICKUP (42_worker_commands.md R181). With nothing to pick up "the worker's iteration does nothing" (R180; log entry 15). -/
def execWPickup (s : State) : Result :=
  if s.w.phase = .poll then
    if s.sess.state = .ioFinish then
      .next ((s.quiet.setProto .idle).withW { s.w with cmd := s.ctx.command, phase := .mark })
    else .next s.quiet
  else .refused .workerStepNotSelected

/-- W.MARK (42_worker_commands.md R182). -/
def execWMark (s : State) : Result :=
  if s.w.phase = .mark then
    .next ((s.quiet.merge codeInProgress).withW { s.w with phase := .exec, k := 0, hit := false })
  else .refused .workerStepNotSelected

/-- W.EXEC (42_worker_commands.md R183). -/
def execWExec (s : State) : Result :=
  if s.w.phase = .exec then .next s.quiet.runCommand else .refused .workerStepNotSelected

/-- W.REPORT (42_worker_commands.md R190). -/
def execWReport (s : State) : Result :=
  if s.w.phase = .report then .next ((s.quiet.merge s.w.result).withW { s.w with phase := .poll })
  else .refused .workerStepNotSelected

end Sys2Proof.Machine
end

