-- ==== Sys2Proof/Syntax.lean ====
section
/-! DEFINITION. The rows of spec/opcode_table.json, one constructor for each mnemonic (the five rows CMD.EXT are one mnemonic over the
codes 0x08 to 0xFF and share a constructor). -/

namespace Sys2Proof

/-- The atomic steps the opcode table lists. Operands a row has no bits for (the page, offset and value of a driver move, the code of a
StatusUpdate: 42_worker_commands.md R192) are operands here too (log entry 7). -/
inductive Instr where
  /-- EV.STOP: a STOP condition ended the transaction (40_bus_state_machine.md R123). -/
  | evStop
  /-- EV.ADDR.W: address phase, controller write (R121, R122). -/
  | evAddrW
  /-- EV.ADDR.R: address phase, controller read (R121, R122). -/
  | evAddrR
  /-- EV.DATA.W: the controller wrote the byte `b` (R120). -/
  | evDataW (b : Byte)
  /-- EV.DATA.R: the controller asks for the next byte (R125). -/
  | evDataR
  /-- EV.NONE: the event word's kind 0b11, not an event (30_encoding.md R91, R100). -/
  | evNone
  /-- ADDR.CTRL: an address byte that carries the marker (30_encoding.md R93). -/
  | addrCtrl (marker off4 : Nibble)
  /-- ADDR.PAGE: every other address byte (30_encoding.md R93). -/
  | addrPage (off8 : Byte)
  /-- DATA.FIRST: the first data byte of a write transaction (40_bus_state_machine.md R127). -/
  | dataFirst (b : Byte)
  /-- DATA.NEXT: a further data byte (R128). -/
  | dataNext (b : Byte)
  /-- DATA.RO: a data byte for a read-only page (R129). -/
  | dataRo (b : Byte)
  /-- DATA.ERR: a data byte after an address fault (R130). -/
  | dataErr (b : Byte)
  /-- CMD.NONE: the command code 0x00, never posted (41_command_posting_status.md R164). -/
  | cmdNone
  /-- CMD.SETPAGE: the command code 0x01 (42_worker_commands.md R184). -/
  | cmdSetPage
  /-- CMD.SETDEVADDR: the command code 0x02 (R185). -/
  | cmdSetDevAddr
  /-- CMD.RESET: the command code 0x03 (R186). -/
  | cmdReset
  /-- CMD.RESERVED: the command codes 0x04 to 0x07, by their two low bits (R187). -/
  | cmdReserved (low : BitVec 2)
  /-- CMD.EXT: the command codes 0x08 to 0xFF, one step of the table scan (R188). -/
  | cmdExt (code : Byte)
  /-- POST.NOFIELD: a write transaction ends and its page has no command field (41_command_posting_status.md R161). -/
  | postNoField
  /-- POST.NONE: a write transaction ends and its command field holds 0 (R164). -/
  | postNone
  /-- POST.ACCEPT: a write transaction ends and its command is posted (R162). -/
  | postAccept
  /-- POST.REJECT: a write transaction ends and its command is rejected (R163). -/
  | postReject
  /-- W.PICKUP: the worker polls for a posted command (42_worker_commands.md R181). -/
  | wPickup
  /-- W.MARK: the worker sets the status to InProgress (R182). -/
  | wMark
  /-- W.EXEC: the worker executes, or goes on executing, the command (R183). -/
  | wExec
  /-- W.REPORT: the worker reports the result (R190). -/
  | wReport
  /-- DRV.WRITE: DriverWrite(p, i, v) (R192). -/
  | drvWrite (p i v : Byte)
  /-- DRV.READ: DriverRead(p, i) (R192). -/
  | drvRead (p i : Byte)
  /-- DRV.TXCMD: DriverWriteTxCommand(v) (R192). -/
  | drvTxCmd (v : Byte)
  /-- DRV.STATUSUPDATE: StatusUpdate(code) (41_command_posting_status.md R167). -/
  | drvStatusUpdate (code : Nibble)
  /-- RESET: power-on or restart of the whole block (70_reset_and_hazards.md R251). -/
  | reset
deriving DecidableEq, Repr

end Sys2Proof
end

