-- ==== Sys2Proof/Machine/Dispatch.lean ====
section
/-! DEFINITION. One arm for each instruction, each a direct call of its meaning. -/

namespace Sys2Proof.Machine

def exec (i : Instr) (s : State) : Host.Outcome State Fault Refusal :=
  match i with
  | .evStop => Sys2Proof.Machine.execEvStop s
  | .evAddrW => Sys2Proof.Machine.execEvAddrW s
  | .evAddrR => Sys2Proof.Machine.execEvAddrR s
  | .evDataW b => Sys2Proof.Machine.execEvDataW b s
  | .evDataR => Sys2Proof.Machine.execEvDataR s
  | .evNone => Sys2Proof.Machine.execEvNone s
  | .addrCtrl marker off4 => Sys2Proof.Machine.execAddrCtrl marker off4 s
  | .addrPage off8 => Sys2Proof.Machine.execAddrPage off8 s
  | .dataFirst b => Sys2Proof.Machine.execDataFirst b s
  | .dataNext b => Sys2Proof.Machine.execDataNext b s
  | .dataRo b => Sys2Proof.Machine.execDataRo b s
  | .dataErr b => Sys2Proof.Machine.execDataErr b s
  | .cmdNone => Sys2Proof.Machine.execCmdNone s
  | .cmdSetPage => Sys2Proof.Machine.execCmdSetPage s
  | .cmdSetDevAddr => Sys2Proof.Machine.execCmdSetDevAddr s
  | .cmdReset => Sys2Proof.Machine.execCmdReset s
  | .cmdReserved low => Sys2Proof.Machine.execCmdReserved low s
  | .cmdExt code => Sys2Proof.Machine.execCmdExt code s
  | .postNoField => Sys2Proof.Machine.execPostNoField s
  | .postNone => Sys2Proof.Machine.execPostNone s
  | .postAccept => Sys2Proof.Machine.execPostAccept s
  | .postReject => Sys2Proof.Machine.execPostReject s
  | .wPickup => Sys2Proof.Machine.execWPickup s
  | .wMark => Sys2Proof.Machine.execWMark s
  | .wExec => Sys2Proof.Machine.execWExec s
  | .wReport => Sys2Proof.Machine.execWReport s
  | .drvWrite p off v => Sys2Proof.Machine.execDrvWrite p off v s
  | .drvRead p off => Sys2Proof.Machine.execDrvRead p off s
  | .drvTxCmd v => Sys2Proof.Machine.execDrvTxCmd v s
  | .drvStatusUpdate code => Sys2Proof.Machine.execDrvStatusUpdate code s
  | .reset => Sys2Proof.Machine.execReset s

end Sys2Proof.Machine
end

