-- ==== Sys2Proof/WellFormed.lean ====
section
/-! DEFINITION. Which instructions are well formed: what the encodings allow of the operands. -/

namespace Sys2Proof

/-- The checks: a marker nibble has bit 3 set (00_scope.md R6), and an extension code is at least 8 (30_encoding.md R96). Every other operand may
hold any value of its width. -/
def Instr.wf : Instr → Bool
  | .addrCtrl marker _ => marker.getLsbD 3
  | .cmdExt code => firstExtCode ≤ code.toNat
  | .evStop | .evAddrW | .evAddrR | .evDataW _ | .evDataR | .evNone => true
  | .addrPage _ | .dataFirst _ | .dataNext _ | .dataRo _ | .dataErr _ => true
  | .cmdNone | .cmdSetPage | .cmdSetDevAddr | .cmdReset | .cmdReserved _ => true
  | .postNoField | .postNone | .postAccept | .postReject => true
  | .wPickup | .wMark | .wExec | .wReport => true
  | .drvWrite _ _ _ | .drvRead _ _ | .drvTxCmd _ | .drvStatusUpdate _ | .reset => true

end Sys2Proof
end

