-- ==== Sys2Proof/Decode.lean ====
section
/-! DEFINITION. Decoding a request and, after it, the encoder. The role of a written byte is told by `sess.state` and `CTRL_MARKER`
(30_encoding.md R90, R93), so both are arguments. -/

namespace Sys2Proof

/-- The event named by an event word; the ignored bits are dropped (30_encoding.md R91). -/
def decodeEventWord (w : EventWord) : Instr :=
  match (eventKind w).toNat with
  | 0 => .evStop
  | 1 => if eventDir w then .evAddrR else .evAddrW
  | 2 => if eventDir w then .evDataR else .evDataW (eventData w)
  | _ => .evNone

/-- The two forms of an address byte, ADDR.CTRL tested first (30_encoding.md R93). -/
def decodeAddressByte (marker : List Nibble) (b : Byte) : Instr :=
  if marker.contains (hiNibble b) then .addrCtrl (hiNibble b) (loNibble b) else .addrPage b

/-- The data-byte row the protocol state selects (40_bus_state_machine.md R120). -/
def decodeDataByte (st : ProtoState) (b : Byte) : Except DecodeError Instr :=
  match st with
  | .readWriteFirstByte => .ok (.dataFirst b)
  | .readWrite => .ok (.dataNext b)
  | .readOnly => .ok (.dataRo b)
  | .error => .ok (.dataErr b)
  | .idle | .addressOrRead | .ioFinish => .error .noDataRow

/-- The map of the 256 command codes (30_encoding.md R96). -/
def decodeCommandByte (c : Byte) : Instr :=
  if c = 0 then .cmdNone
  else if c = cmdCodeSetPage then .cmdSetPage
  else if c = cmdCodeSetDevAddr then .cmdSetDevAddr
  else if c = cmdCodeReset then .cmdReset
  else if c.toNat < firstExtCode then .cmdReserved (c.extractLsb' 0 2)
  else .cmdExt c

/-- How many operand bytes follow a step label (log entry 7). -/
def labelOperands (l : Nibble) : Nat :=
  match l.toNat with
  | 8 => 3
  | 9 => 2
  | 10 => 1
  | 11 => 1
  | _ => 0

/-- The step of a label and its operand bytes (30_encoding.md R99). -/
def decodeLabel (l : Nibble) (ops : List Byte) : Except DecodeError Instr :=
  if 13 ≤ l.toNat then .error .unusedLabel
  else if ops.length < labelOperands l then .error .missingBytes
  else if labelOperands l < ops.length then .error .trailingBytes
  else
    match l.toNat with
    | 0 => .ok .wPickup
    | 1 => .ok .wMark
    | 2 => .ok .wExec
    | 3 => .ok .wReport
    | 4 => .ok .postNoField
    | 5 => .ok .postNone
    | 6 => .ok .postAccept
    | 7 => .ok .postReject
    | 8 => .ok (.drvWrite (ops.getD 0 0) (ops.getD 1 0) (ops.getD 2 0))
    | 9 => .ok (.drvRead (ops.getD 0 0) (ops.getD 1 0))
    | 10 => .ok (.drvTxCmd (ops.getD 0 0))
    | 11 =>
      if hiNibble (ops.getD 0 0) = 0 then .ok (.drvStatusUpdate (loNibble (ops.getD 0 0))) else .error .strayBits
    | _ => .ok .reset

/-- The one byte of a one-byte format. -/
def oneByte (bytes : List Byte) : Except DecodeError Byte :=
  match bytes with
  | [] => .error .missingBytes
  | [b] => .ok b
  | _ :: _ :: _ => .error .trailingBytes

/-- The two bytes of an event word: `data` first, then `kind` and `dir` (log entry 7). -/
def eventOfBytes (bytes : List Byte) : Except DecodeError Instr :=
  match bytes with
  | [] | [_] => .error .missingBytes
  | [b0, b1] => if b1.toNat < 8 then .ok (decodeEventWord (b1.setWidth 3 ++ b0)) else .error .strayBits
  | _ :: _ :: _ :: _ => .error .trailingBytes

/-- The label byte and its operands. -/
def labelOfBytes (bytes : List Byte) : Except DecodeError Instr :=
  match bytes with
  | [] => .error .missingBytes
  | b :: ops => if hiNibble b = 0 then decodeLabel (loNibble b) ops else .error .strayBits

/-- Total decoder: the instruction of a request under the marker set and the protocol state, or the reason there is none. -/
def decode (marker : List Nibble) (st : ProtoState) (r : Request) : Except DecodeError Instr :=
  match r.fmt with
  | .eventWord => eventOfBytes r.bytes
  | .addressByte => (oneByte r.bytes).map (decodeAddressByte marker)
  | .dataByte => (oneByte r.bytes).bind (decodeDataByte st)
  | .commandByte => (oneByte r.bytes).map decodeCommandByte
  | .stepLabel => labelOfBytes r.bytes

/-- The two bytes of an event word. -/
def eventBytes (w : EventWord) : List Byte := [eventData w, (w.extractLsb' 8 3).setWidth 8]

/-- The request of an event word. -/
def eventRequest (w : EventWord) : Request := ⟨.eventWord, eventBytes w⟩

/-- The request of a step label with its operands. -/
def labelRequest (l : Nibble) (ops : List Byte) : Request := ⟨.stepLabel, zext8 l :: ops⟩

/-- The encoder, from the same tables (30_encoding.md R91, R93, R96, R99); ignored bits are written as zeros. -/
def encode : Instr → Request
  | .evStop => eventRequest 0x000
  | .evAddrW => eventRequest 0x200
  | .evAddrR => eventRequest 0x300
  | .evDataW b => eventRequest ((0b100 : BitVec 3) ++ b)
  | .evDataR => eventRequest 0x500
  | .evNone => eventRequest 0x600
  | .addrCtrl marker off4 => ⟨.addressByte, [joinNibbles marker off4]⟩
  | .addrPage off8 => ⟨.addressByte, [off8]⟩
  | .dataFirst b => ⟨.dataByte, [b]⟩
  | .dataNext b => ⟨.dataByte, [b]⟩
  | .dataRo b => ⟨.dataByte, [b]⟩
  | .dataErr b => ⟨.dataByte, [b]⟩
  | .cmdNone => ⟨.commandByte, [0]⟩
  | .cmdSetPage => ⟨.commandByte, [cmdCodeSetPage]⟩
  | .cmdSetDevAddr => ⟨.commandByte, [cmdCodeSetDevAddr]⟩
  | .cmdReset => ⟨.commandByte, [cmdCodeReset]⟩
  | .cmdReserved low => ⟨.commandByte, [reservedCode low]⟩
  | .cmdExt code => ⟨.commandByte, [code]⟩
  | .wPickup => labelRequest 0 []
  | .wMark => labelRequest 1 []
  | .wExec => labelRequest 2 []
  | .wReport => labelRequest 3 []
  | .postNoField => labelRequest 4 []
  | .postNone => labelRequest 5 []
  | .postAccept => labelRequest 6 []
  | .postReject => labelRequest 7 []
  | .drvWrite p i v => labelRequest 8 [p, i, v]
  | .drvRead p i => labelRequest 9 [p, i]
  | .drvTxCmd v => labelRequest 10 [v]
  | .drvStatusUpdate code => labelRequest 11 [zext8 code]
  | .reset => labelRequest 12 []

/-- Is the instruction the one its byte stands for under this marker set and protocol state? The address forms are told apart by the marker
set (30_encoding.md R93), the data rows by the state (40_bus_state_machine.md R120); every other encoding has one meaning. -/
def Instr.fits (marker : List Nibble) (st : ProtoState) : Instr → Bool
  | .addrCtrl m _ => marker.contains m
  | .addrPage b => !marker.contains (hiNibble b)
  | .dataFirst _ => st = .readWriteFirstByte
  | .dataNext _ => st = .readWrite
  | .dataRo _ => st = .readOnly
  | .dataErr _ => st = .error
  | .evStop | .evAddrW | .evAddrR | .evDataW _ | .evDataR | .evNone => true
  | .cmdNone | .cmdSetPage | .cmdSetDevAddr | .cmdReset | .cmdReserved _ | .cmdExt _ => true
  | .postNoField | .postNone | .postAccept | .postReject => true
  | .wPickup | .wMark | .wExec | .wReport => true
  | .drvWrite _ _ _ | .drvRead _ _ | .drvTxCmd _ | .drvStatusUpdate _ | .reset => true

/-- The marker set the opcode table shows its rows for, `CTRL_MARKER = {0xF}` (00_scope.md R6, opcode_table.json). -/
def tableMarker : List Nibble := [0xF]

/-- The command rows' words with zero operand bits that are also step labels: codes 0 to 3, `0b000001zz` and `0b00001zzz` (30_encoding.md R96). -/
def isCommandRowWord (w : Nat) : Bool := w ≤ 4 || w = 8

/-- The request of a step label, its operand bytes zero. -/
def tableLabel (w : Nat) : Request :=
  labelRequest (BitVec.ofNat 4 w) (List.replicate (labelOperands (BitVec.ofNat 4 w)) 0)

/-- The request of a table word of one byte. Formats overlap there: a word with the marker is an address byte; a word below 13 is a step label
unless it is the zero-operand word of a command row; every other is a command code (log entry 8). -/
def tableByte (w : Nat) : Request :=
  if tableMarker.contains (hiNibble (BitVec.ofNat 8 w)) then ⟨.addressByte, [BitVec.ofNat 8 w]⟩
  else if w < 13 && !isCommandRowWord w then tableLabel w
  else ⟨.commandByte, [BitVec.ofNat 8 w]⟩

/-- The request of a table word `w` of `nbits` bits, operand bytes zero: up to 4 bits a step label, up to 8 a byte, up to 16 an event word (log
entry 8). -/
def tableRequest (nbits w : Nat) : Option Request :=
  if nbits ≤ 4 then
    if w < 16 then some (tableLabel w) else none
  else if nbits ≤ 8 then
    if w < 256 then some (tableByte w) else none
  else if nbits ≤ 16 then
    if w < 65536 then some ⟨.eventWord, [BitVec.ofNat 8 (w % 256), BitVec.ofNat 8 (w / 256)]⟩ else none
  else none

/-- The instruction the decoder reads from a table word. -/
def decodeTableWord (nbits w : Nat) : Option Instr :=
  match tableRequest nbits w with
  | none => none
  | some r => (decode tableMarker .addressOrRead r).toOption

end Sys2Proof
end

