-- ==== Sys2Proof/Machine/Fetch.lean ====
section
/-! DEFINITION. What the next step is: the oldest request of the queue, or, with none, the free choice of who moves (log entries 4, 5, 9). -/

namespace Sys2Proof.Machine

/-- The worker's iteration: the step its phase selects (42_worker_commands.md R180; log entry 5). -/
def State.idleInstr (s : State) : Instr :=
  match s.w.phase with
  | .poll => .wPickup
  | .mark => .wMark
  | .exec => .wExec
  | .report => .wReport

/-- The instruction of a request, and the state `t` in which it runs. -/
def fetchRequest (r : Request) (t : State) : Except Refusal (Option Instr × State) :=
  match decode t.cfg.marker t.sess.state r with
  | .ok i => .ok (some i, t)
  | .error e => .error (.undecodable e)

/-- The instruction of a free turn, none when nobody moves, and the state in which it runs. -/
def fetchTurn (u : Turn) (t : State) : Except Refusal (Option Instr × State) :=
  match u with
  | .worker => .ok (some t.idleInstr, t)
  | .deliver r => fetchRequest r t
  | .nobody => .ok (none, t)

/-- The next instruction and the state in which it runs: the oldest request placed, taken off the queue, or, with none, a free turn. -/
def State.fetch (s : State) : Except Refusal (Option Instr × State) :=
  match s.queue with
  | [] => fetchTurn (Config.turn s.turns) (s.withTurns (s.turns + 1))
  | r :: rest => fetchRequest r (s.withQueue rest)

/-- The worker in phase `p` with code `c`, inside no handler. -/
def State.armWorker (s : State) (p : Phase) (c : Byte) : State := s.withW { s.w with phase := p, cmd := c, hung := false }

/-- A control-page transaction that stored a byte, its command field at `c` and `ctx.command` at `inFlight`. -/
def State.armPost (s : State) (c inFlight : Byte) : State :=
  ((s.setByte ctrlPage offCommand c).withSess { s.sess with state := .readWrite, activePage := ctrlPage, offset := 0 }).withCtx
    { s.ctx with command := inFlight }

/-- Put `s` where the instruction is the one the machine selects: the protocol state, the worker's phase and code, or the command field (log
entry 9). -/
def State.prepare (s : State) (i : Instr) : State :=
  match i with
  | .evStop | .evAddrW | .evAddrR | .evNone | .drvWrite _ _ _ | .drvRead _ _ | .drvTxCmd _ | .drvStatusUpdate _ | .reset => s
  | .evDataW _ => if s.sess.state = .idle ∨ s.sess.state = .ioFinish then s.setProto .addressOrRead else s
  | .evDataR =>
    if s.sess.state = .idle ∨ s.sess.state = .ioFinish ∨ s.sess.state = .error then s.setProto .addressOrRead else s
  | .addrCtrl _ _ | .addrPage _ => s.setProto .addressOrRead
  | .dataFirst _ => s.setProto .readWriteFirstByte
  | .dataNext _ => s.setProto .readWrite
  | .dataRo _ => s.setProto .readOnly
  | .dataErr _ => s.setProto .error
  | .cmdNone | .postNone => s.armPost 0 s.ctx.command
  | .postAccept => s.armPost 1 0
  | .postReject => s.armPost 1 1
  | .postNoField => s.withSess { s.sess with state := .readWrite, activePage := 1, offset := 0 }
  | .cmdSetPage => s.armWorker .exec cmdCodeSetPage
  | .cmdSetDevAddr => s.armWorker .exec cmdCodeSetDevAddr
  | .cmdReset => s.armWorker .exec cmdCodeReset
  | .cmdReserved low => s.armWorker .exec (reservedCode low)
  | .cmdExt code => s.armWorker .exec code
  | .wPickup => (s.armWorker .poll s.w.cmd).setProto .ioFinish
  | .wMark => s.armWorker .mark s.w.cmd
  | .wExec => s.armWorker .exec s.w.cmd
  | .wReport => s.armWorker .report s.w.cmd

/-- `s` with the request of a table word next in the queue, and selected. -/
def State.placeWord (s : State) (nbits w : Nat) : State :=
  match tableRequest nbits w with
  | none => s
  | some r =>
    match decodeTableWord nbits w with
    | none => s.withQueue (r :: s.queue)
    | some i => (s.prepare i).withQueue (r :: s.queue)

end Sys2Proof.Machine
end

