-- ==== Sys2Proof/Machine/Step.lean ====
section
/-! DEFINITION. One step of the machine: fetch the next instruction and execute it. -/

namespace Sys2Proof.Machine

/-- One atomic step of one agent (20_memory.md R71); where nobody moves only the outputs of the step before are gone. -/
def step (s : State) : Host.Outcome State Fault Refusal :=
  match s.fetch with
  | .ok (some i, t) => exec i t
  | .ok (none, t) => .next t.quiet
  | .error e => .refused e

/-- `s` with the instruction of the table word `w` of `nbits` bits where `step` fetches next (log entries 4, 8, 9). -/
def State.withFetchWord (s : State) (nbits w : Nat) : State := s.placeWord nbits w

end Sys2Proof.Machine
end

