-- ==== Sys2Proof/Safety.lean ====
section
/-! DEFINITION. What counts as a good state, in the terms claims use: the invariants of 10_state.md R46, the memory's canonical form and place, and
the runs claims speak of. -/

namespace Sys2Proof

/-- No page's command field lies in page `q`. -/
abbrev Config.NoFieldIn (c : Config) (q : Byte) : Prop := ∀ p l, c.cmdFieldLoc p = some l → l.page ≠ q

/-- No page's command field is the status byte. -/
abbrev Config.NoFieldAtStatus (c : Config) : Prop := ∀ p, c.cmdFieldLoc p ≠ some ⟨ctrlPage, offStatus⟩

end Sys2Proof

namespace Sys2Proof.Machine

/-- `(p, i)` is a location of the register-file space (20_memory.md R60). -/
abbrev State.HasLoc (s : State) (p i : Byte) : Prop := p.toNat < s.cfg.pageCount ∧ i.toNat < s.cfg.len p

/-- The cursor is a location: 10_state.md R46 (b) and (c). -/
abbrev State.CursorOk (s : State) : Prop := s.HasLoc s.sess.activePage s.sess.offset

/-- The memory list is canonical, and every listed address is a location (log entry 16). -/
abbrev State.MemOk (s : State) : Prop :=
  Memory.wf s.cfg.initByte s.mem = true ∧ ∀ c ∈ s.mem, c.1 % 256 < (s.cfg.initOf (c.1 / 256)).length

/-- A transaction that stores bytes has a page the bus may write, a read-only one has not (20_memory.md R64). -/
abbrev State.WriteStateOk (s : State) : Prop :=
  (s.sess.state = .readWriteFirstByte ∨ s.sess.state = .readWrite → s.cfg.rw s.sess.activePage = true) ∧
  (s.sess.state = .readOnly → s.cfg.rw s.sess.activePage = false)

/-- A worker inside a handler that never returns is executing an extension command (42_worker_commands.md R188; log entry 14). -/
abbrev State.HungOk (s : State) : Prop := s.w.hung = true → s.w.phase = .exec ∧ firstExtCode ≤ s.w.cmd.toNat

/-- The invariant: the configuration meets its constraints, 10_state.md R46 (a) to (d), the memory list, the write states, `w.k` in `0..T`
(10_state.md R43, R45), and where a worker can hang. -/
abbrev State.Inv (s : State) : Prop :=
  s.cfg.Valid ∧
  s.sess.page.toNat < s.cfg.pageCount ∧
  s.CursorOk ∧
  s.ctx.lastAddress.toNat < s.cfg.pageCount ∧
  s.MemOk ∧
  s.WriteStateOk ∧
  s.w.k ≤ s.cfg.cmdTable.length ∧
  s.HungOk

/-- Every byte of the device-info page holds its reset contents (10_state.md R39: "No rule writes `buf[1]`"). -/
abbrev State.DevInfoIntact (s : State) : Prop := ∀ i : Byte, s.byte 1 i = s.cfg.initByte (locAddr 1 i)

/-- Every handler of the list returns, invoked in its order from the `n`-th draw on. -/
def AllReturn (n : Nat) (cmd : Byte) (entries : List CmdEntry) : Prop :=
  ∀ j e, entries[j]? = some e → Config.handlerReturns (n + j) e.handler cmd = true

/-- What the last handler of the list returns, invoked in its order from the `n`-th draw on; `d` for no handler. -/
def lastReturn (n : Nat) (cmd : Byte) (d : Nibble) (entries : List CmdEntry) : Nibble :=
  match entries.getLast? with
  | none => d
  | some e => Config.handlerReturn (n + (entries.length - 1)) e.handler cmd

/-- Execute instructions one after the other, stopping at the first stop: one agent order of 20_memory.md R71. -/
def execAll : List Instr → State → Result
  | [], s => .next s
  | i :: is, s => andThen (exec i s) (execAll is)

end Sys2Proof.Machine
end

