-- ==== Sys2Proof/Certificates/Slice0/Obligations.lean ====
section
/-! DEFINITION. The statements for the provers. `{ s with …, mem := t.mem }` says that `t` differs from `s` in the fields named and in memory
only; the clause beside it gives every byte. A docstring names each decision (`D…`) or resolution (`C…`) the spec marks as its own and each log
entry the statement rests on; that the outputs of a step stand in `out` is the model's in every statement (log entries 6 and 24). -/

open Sys2Proof Sys2Proof.Machine

/-! ### Encoding and the step -/

/-- Decoding an encoded well-formed instruction gives it back, wherever the marker set and the protocol state make its byte that instruction
(30_encoding.md sections 2 to 5; the event word is the spec's own labelling, D1, the bytes of a request the model's layout, log entry 7). -/
def Obligations.DecodeInvertsEncode : Prop :=
  ∀ (marker : List Nibble) (st : ProtoState) (i : Instr),
    i.wf = true → i.fits marker st = true → decode marker st (encode i) = .ok i

/-- Whatever a request decodes to is well formed and is the instruction that byte stands for, for every marker set whose members have bit 3 set
(00_scope.md section 4; the bytes of a request are the model's layout, log entry 7). -/
def Obligations.DecodedInstructionIsWellFormed : Prop :=
  ∀ (marker : List Nibble) (st : ProtoState) (r : Request) (i : Instr),
    (∀ m ∈ marker, m.getLsbD 3 = true) → decode marker st r = .ok i → i.wf = true ∧ i.fits marker st = true

/-- Each of the 2048 event words is read by its fields `kind`, `dir` and `data`, the ignored bits dropped (30_encoding.md section 2; the event word
is the spec's own labelling, 92_eei_decisions.md D1, and its two bytes are the model's layout, log entry 7). -/
def Obligations.EventWordIsReadByItsFields : Prop :=
  ∀ (marker : List Nibble) (st : ProtoState) (z : BitVec 9) (x b : Byte),
    decode marker st (eventRequest ((0b00 : BitVec 2) ++ z)) = .ok .evStop ∧
    decode marker st (eventRequest ((0b010 : BitVec 3) ++ x)) = .ok .evAddrW ∧
    decode marker st (eventRequest ((0b011 : BitVec 3) ++ x)) = .ok .evAddrR ∧
    decode marker st (eventRequest ((0b100 : BitVec 3) ++ b)) = .ok (.evDataW b) ∧
    decode marker st (eventRequest ((0b101 : BitVec 3) ++ x)) = .ok .evDataR ∧
    decode marker st (eventRequest ((0b11 : BitVec 2) ++ z)) = .ok .evNone

/-- The map of the 256 command codes (30_encoding.md section 4; that the codes from 8 on are one constructor is the model's, log entry 23). -/
def Obligations.CommandCodeMap : Prop :=
  ∀ (marker : List Nibble) (st : ProtoState) (c : Byte),
    decode marker st ⟨.commandByte, [c]⟩ = .ok
      (if c.toNat = 0 then .cmdNone
       else if c.toNat = 1 then .cmdSetPage
       else if c.toNat = 2 then .cmdSetDevAddr
       else if c.toNat = 3 then .cmdReset
       else if c.toNat < 8 then .cmdReserved (BitVec.ofNat 2 (c.toNat - 4))
       else .cmdExt c)

/-- Words whose bits are written out from the spec's tables: event words of program P1 (95_test_vectors.md), the address bytes of its table B,
command codes and step labels (30_encoding.md sections 2 to 5). The event word is the spec's own labelling (D1); its two bytes, the byte of a label
and the operand bytes of DRV.WRITE are the model's layout (log entry 7, a design choice). -/
def Obligations.SpecWordsDecode : Prop :=
  decode [0xF] .idle ⟨.eventWord, [0x00, 0b000]⟩ = .ok .evStop ∧
  decode [0xF] .idle ⟨.eventWord, [0x00, 0b010]⟩ = .ok .evAddrW ∧
  decode [0xF] .idle ⟨.eventWord, [0xF2, 0b100]⟩ = .ok (.evDataW 0xF2) ∧
  decode [0xF] .idle ⟨.eventWord, [0x00, 0b101]⟩ = .ok .evDataR ∧
  decode [0xF] .addressOrRead ⟨.addressByte, [0b11110010]⟩ = .ok (.addrCtrl 0xF 2) ∧
  decode [0xF] .addressOrRead ⟨.addressByte, [0b11100000]⟩ = .ok (.addrPage 0xE0) ∧
  decode [0xF] .readWrite ⟨.dataByte, [0xAA]⟩ = .ok (.dataNext 0xAA) ∧
  decode [0xF] .idle ⟨.commandByte, [0b00000101]⟩ = .ok (.cmdReserved 1) ∧
  decode [0xF] .idle ⟨.stepLabel, [0b0010]⟩ = .ok .wExec ∧
  decode [0xF] .idle ⟨.stepLabel, [0b1000, 2, 3, 4]⟩ = .ok (.drvWrite 2 3 4) ∧
  decode [0xF] .idle ⟨.stepLabel, [0b1101]⟩ = .error .unusedLabel

/-- A step takes the oldest request off the queue and executes the instruction it decodes to (log entry 4). -/
def Obligations.StepRunsDecodedRequest : Prop :=
  ∀ (s : State) (r : Request) (rest : List Request) (i : Instr),
    s.queue = r :: rest → decode s.cfg.marker s.sess.state r = .ok i → step s = exec i { s with queue := rest }

/-- With nothing placed a step is whoever's turn it is, a free value: the worker's iteration, which its phase selects, another agent's request, or
nobody's, which changes nothing of the block (42_worker_commands.md section 1, 60_exceptions.md section 6; no fairness is the spec's decision D31;
log entry 5). -/
def Obligations.EmptyQueueTakesAFreeTurn : Prop :=
  ∀ s : State, s.queue = [] →
    step s =
      match Config.turn s.turns with
      | .worker =>
        exec (match s.w.phase with | .poll => .wPickup | .mark => .wMark | .exec => .wExec | .report => .wReport)
          { s with turns := s.turns + 1 }
      | .deliver r =>
        match decode s.cfg.marker s.sess.state r with
        | .ok i => exec i { s with turns := s.turns + 1 }
        | .error e => .refused (.undecodable e)
      | .nobody => .next { s with turns := s.turns + 1, out := {} }

/-! ### Reset -/

/-- The reset operation leaves the values of the table of 10_state.md section 9 (the spec's decision D14; log entry 18), keeps `nvm`, and loads the
bus address; every byte of every page holds its reset contents. That the worker then stands in no handler (`w.hung` false) is the model's choice
(log entry 14). -/
def Obligations.ResetSetsEveryElement : Prop :=
  ∀ s : State, ∃ t, exec .reset s = .next t ∧
    t = { s with
          sess := { state := .idle, page := s.cfg.resetPage, activePage := 0, offset := 0, command := 0 }
          ctx := { command := 0, lastCommand := 0, lastAddress := 0 }
          mem := []
          devAddr := s.cfg.loadAddr s.nvm
          w := { phase := .poll, cmd := 0, result := 0, k := 0, hit := false, hung := false }
          out := {} } ∧
    (∀ i : Byte, i.toNat < 7 → t.byte 0 i = 0) ∧
    t.byte 1 0 = s.cfg.manufacturerId.setWidth 8 ∧
    t.byte 1 1 = (s.cfg.manufacturerId >>> 8).setWidth 8 ∧
    t.byte 1 2 = s.cfg.productId.setWidth 8 ∧
    t.byte 1 3 = (s.cfg.productId >>> 8).setWidth 8 ∧
    t.byte 1 4 = s.cfg.version ∧
    (∀ (j : Nat) (d : DriverPage) (p i : Byte) (v : Byte), s.cfg.drivers[j]? = some d → p.toNat = j + 2 →
      d.init[i.toNat]? = some v → t.byte p i = v)

/-- `LoadAddr()`: an even stored byte gives the default address; 0xFF does so only under `NVM_FF_IS_UNPROGRAMMED`, which is the spec's parameter
(D20); every other odd byte is the address (10_state.md section 7). -/
def Obligations.LoadAddrRule : Prop :=
  ∀ (c : Config) (v : Byte),
    (v.toNat % 2 = 0 → c.loadAddr v = c.defaultAddr) ∧
    (v.toNat = 255 → c.loadAddr v = if c.ffUnprogrammed then c.defaultAddr else v) ∧
    (v.toNat % 2 = 1 → v.toNat ≠ 255 → c.loadAddr v = v)

/-- The machine at `State.reset`, whatever the board's free values are, meets the invariant, and so does the power-on state of every valid
configuration (10_state.md section 10; the reset values are the spec's decision D14; log entries 2 and 3). -/
def Obligations.ResetMeetsInvariant : Prop :=
  State.reset.Inv ∧ ∀ (c : Config) (nvm : Byte), c.Valid → (State.powerOn c nvm).Inv

/-! ### The address phase and STOP -/

/-- An address phase with no transaction open: ACK and `AddressOrRead` from Idle, NACK and no change while a command awaits pickup
(40_bus_state_machine.md section 2; that the cursor stays is the spec's decision D7, that a NACKed address phase changes nothing its decision D9).
-/
def Obligations.AddressPhaseWithoutTransaction : Prop :=
  ∀ (s : State) (i : Instr), i = .evAddrW ∨ i = .evAddrR →
    (s.sess.state = .idle →
      exec i s = .next { s with sess := { s.sess with state := .addressOrRead }, out := { response := .ack } }) ∧
    (s.sess.state = .ioFinish → exec i s = .next { s with out := { response := .nack } })

/-- An address phase while a transaction is open first ends it exactly as a STOP would, then answers from the state that leaves: one step (the
spec's decision D5; 40_bus_state_machine.md section 2). -/
def Obligations.RestartIsStopThenAddressPhase : Prop :=
  ∀ (s : State) (i : Instr), i = .evAddrW ∨ i = .evAddrR → s.Inv → s.sess.state ≠ .idle → s.sess.state ≠ .ioFinish →
    ∃ u, exec .evStop s = .next u ∧
      exec i s = .next
        (if u.sess.state = .ioFinish then { u with out := { u.out with response := .nack } }
         else { u with sess := { u.sess with state := .addressOrRead }, out := { u.out with response := .ack } })

/-- A STOP that ends a transaction in which nothing was stored only returns to Idle; with no transaction open it changes nothing (the no-op is
the spec's decision D9; 40_bus_state_machine.md section 2). -/
def Obligations.StopWithoutStoredByte : Prop :=
  ∀ s : State,
    (s.sess.state = .addressOrRead ∨ s.sess.state = .readOnly ∨ s.sess.state = .readWriteFirstByte ∨ s.sess.state = .error →
      exec .evStop s = .next { s with sess := { s.sess with state := .idle }, out := {} }) ∧
    (s.sess.state = .idle ∨ s.sess.state = .ioFinish → exec .evStop s = .next { s with out := {} })

/-- A STOP after a stored byte takes exactly one of the four posting outcomes, told by the active page's command field and `ctx.command`
(40_bus_state_machine.md section 2, 41_command_posting_status.md section 1). That a row POST.* run as a step of its own is that STOP, the read
and clear included, is the model's reading (log entry 11). -/
def Obligations.StopAfterStoredBytePosts : Prop :=
  ∀ s : State, s.Inv → s.sess.state = .readWrite →
    ∃ t, exec .evStop s = .next t ∧
      match s.cfg.cmdFieldLoc s.sess.activePage with
      | none => exec .postNoField s = .next t
      | some l =>
        if s.byte l.page l.off = 0 then exec .postNone s = .next t
        else if s.ctx.command = 0 then exec .postAccept s = .next t
        else exec .postReject s = .next t

/-! ### Posting -/

/-- The command field of a page: `(0, 2)` for the control page, `TXCMD_LOC(p)`, the spec's open parameter (D4), for every other page
(41_command_posting_status.md section 1). -/
def Obligations.CommandFieldLocation : Prop :=
  ∀ c : Config,
    c.cmdFieldLoc 0 = some ⟨0, 2⟩ ∧ c.cmdFieldLoc 1 = c.devInfoTx ∧
    (∀ (p : Byte) (j : Nat), p.toNat = j + 2 → c.cmdFieldLoc p = (c.drivers[j]?).bind DriverPage.txLoc)

/-- A page without a command field: back to Idle, nothing read, nothing cleared (41_command_posting_status.md section 1). That the row
POST.NOFIELD is the whole end of the transaction is the model's choice (log entry 11). -/
def Obligations.PostWithoutField : Prop :=
  ∀ s : State, s.sess.state = .readWrite → s.sess.activePage.toNat < s.cfg.pageCount →
    s.cfg.cmdFieldLoc s.sess.activePage = none →
    exec .postNoField s = .next { s with sess := { s.sess with state := .idle }, out := {} }

/-- A field that holds 0 posts nothing: Idle, `sess.command` takes the 0 (D30), no byte changes (41_command_posting_status.md section 1). That the
rows POST.NONE and CMD.NONE are the whole end of the transaction is the model's choice (log entries 11 and 12). -/
def Obligations.PostOfZero : Prop :=
  ∀ (s : State) (l : Loc) (i : Instr), i = .postNone ∨ i = .cmdNone → s.Inv → s.sess.state = .readWrite →
    s.cfg.cmdFieldLoc s.sess.activePage = some l → s.byte l.page l.off = 0 →
    exec i s = .next { s with sess := { s.sess with state := .idle, command := 0 }, out := {} }

/-- An accepted post clears the field, sets the code InProgress and keeps the flags, latches the code and the page, and raises Wake
(41_command_posting_status.md section 1). The write of `sess.command` is the spec's decision D30, the page index in `ctx.lastAddress` its decision
D15, the place of Wake its reading of the source (section 2); POST.ACCEPT as a step with the read and clear included is the model's (log entry 11). -/
def Obligations.AcceptedPost : Prop :=
  ∀ (s : State) (l : Loc), s.Inv → s.sess.state = .readWrite →
    s.cfg.cmdFieldLoc s.sess.activePage = some l → s.byte l.page l.off ≠ 0 → s.ctx.command = 0 →
    ∃ t, exec .postAccept s = .next t ∧
      t = { s with
            sess := { s.sess with state := .ioFinish, command := s.byte l.page l.off }
            ctx := { s.ctx with command := s.byte l.page l.off, lastAddress := s.sess.activePage }
            mem := t.mem
            out := { wake := true } } ∧
      ∀ p i : Byte, t.byte p i =
        if p = 0 ∧ i = 0 then 0x10 ||| ((if l = ⟨0, 0⟩ then 0 else s.byte 0 0) &&& 0x0F)
        else if p = l.page ∧ i = l.off then 0
        else s.byte p i

/-- A rejected post clears the field, sets the flags of `REJECT_FLAGS`, and leaves the command in flight alone (41_command_posting_status.md
section 1). The flags are the spec's parameter by its decision D12, the write of `sess.command` its decision D30, the clear of a rejected field its
resolution C5; POST.REJECT as a step with the read and clear included is the model's (log entry 11). -/
def Obligations.RejectedPost : Prop :=
  ∀ (s : State) (l : Loc), s.Inv → s.sess.state = .readWrite →
    s.cfg.cmdFieldLoc s.sess.activePage = some l → s.byte l.page l.off ≠ 0 → s.ctx.command ≠ 0 →
    ∃ t, exec .postReject s = .next t ∧
      t = { s with
            sess := { s.sess with state := .idle, command := s.byte l.page l.off }
            mem := t.mem
            out := {} } ∧
      (∀ p i : Byte, t.byte p i =
        if p = 0 ∧ i = 0 then (if l = ⟨0, 0⟩ then 0 else s.byte 0 0) ||| s.cfg.rejectFlags.setWidth 8
        else if p = l.page ∧ i = l.off then 0
        else s.byte p i) ∧
      statusBusErr (t.byte 0 0) = true

/-! ### Data bytes -/

/-- A read delivers the byte at the cursor, advances with wrap, and changes nothing else (the state stays: the spec's decision D8, that a read has
no other effect its D33; 40_bus_state_machine.md section 3). -/
def Obligations.ReadDeliversByteAtCursor : Prop :=
  ∀ s : State, s.sess.state.servesRead = true → s.CursorOk →
    exec .evDataR s = .next
      { s with
        sess :=
          { s.sess with
            offset := if s.sess.offset.toNat + 1 = s.cfg.len s.sess.activePage then 0 else s.sess.offset + 1 }
        out := { response := .data (s.byte s.sess.activePage s.sess.offset) } }

/-- Data events in states that cannot see them have no step (the spec's decision D10; 40_bus_state_machine.md section 4). -/
def Obligations.UnsequencedDataEventIsRefused : Prop :=
  ∀ (s : State) (b : Byte),
    (s.sess.state = .idle ∨ s.sess.state = .ioFinish → exec (.evDataW b) s = .refused .unsequencedDataEvent) ∧
    (s.sess.state = .idle ∨ s.sess.state = .ioFinish ∨ s.sess.state = .error →
      exec .evDataR s = .refused .unsequencedDataEvent)

/-- The word of kind 0b11 is not an event: refused on every path (30_encoding.md section 5). -/
def Obligations.NonEventIsRefused : Prop :=
  ∀ s : State, exec .evNone s = .refused .notAnEvent

/-- A marked address byte selects the control page whatever the sticky page is: offsets 0 to 6 are ACKed, 7 to 15 are NACKed and enter Error with
the cursor unchanged (the cursor and the ACK are the spec's decision D6, the control page's length its D21, that no flag is set its D13;
20_memory.md section 2). -/
def Obligations.MarkedAddressByte : Prop :=
  ∀ (s : State) (m o : Nibble) (i : Instr), i = .addrCtrl m o ∨ i = .evDataW (m ++ o) →
    s.sess.state = .addressOrRead → m ∈ s.cfg.marker →
    exec i s = .next
      (if o.toNat < 7 then
        { s with
          sess := { s.sess with state := .readWriteFirstByte, activePage := 0, offset := BitVec.ofNat 8 o.toNat }
          out := { response := .ack } }
       else { s with sess := { s.sess with state := .error }, out := { response := .nack } })

/-- An unmarked address byte is an offset into the sticky page (the spec's decision D2): in range it selects it, writable or read-only by the page's
flag; out of range it is NACKed and enters Error with the cursor unchanged (D6; that no flag is set is D13; 20_memory.md section 2). -/
def Obligations.UnmarkedAddressByte : Prop :=
  ∀ (s : State) (b : Byte) (i : Instr), i = .addrPage b ∨ i = .evDataW b →
    s.sess.state = .addressOrRead → (∀ m ∈ s.cfg.marker, m.toNat ≠ b.toNat / 16) →
    s.sess.page.toNat < s.cfg.pageCount →
    exec i s = .next
      (if b.toNat < s.cfg.len s.sess.page then
        { s with
          sess :=
            { s.sess with
              state := if s.cfg.rw s.sess.page then .readWriteFirstByte else .readOnly
              activePage := s.sess.page, offset := b }
          out := { response := .ack } }
       else { s with sess := { s.sess with state := .error }, out := { response := .nack } })

/-- The first data byte is stored at the cursor, the cursor advances, and `ReadWrite` records that a byte was stored
(40_bus_state_machine.md section 4). -/
def Obligations.FirstDataByte : Prop :=
  ∀ (s : State) (b : Byte) (i : Instr), i = .dataFirst b ∨ i = .evDataW b →
    s.sess.state = .readWriteFirstByte → s.CursorOk →
    ∃ t, exec i s = .next t ∧
      t = { s with
            sess :=
              { s.sess with
                state := .readWrite
                offset := if s.sess.offset.toNat + 1 = s.cfg.len s.sess.activePage then 0 else s.sess.offset + 1 }
            mem := t.mem
            out := { response := .ack } } ∧
      ∀ p j : Byte, t.byte p j = if p = s.sess.activePage ∧ j = s.sess.offset then b else s.byte p j

/-- A further data byte is stored at the cursor and the cursor advances with wrap; the state stays `ReadWrite`. -/
def Obligations.FurtherDataByte : Prop :=
  ∀ (s : State) (b : Byte) (i : Instr), i = .dataNext b ∨ i = .evDataW b →
    s.sess.state = .readWrite → s.CursorOk →
    ∃ t, exec i s = .next t ∧
      t = { s with
            sess :=
              { s.sess with
                offset := if s.sess.offset.toNat + 1 = s.cfg.len s.sess.activePage then 0 else s.sess.offset + 1 }
            mem := t.mem
            out := { response := .ack } } ∧
      ∀ p j : Byte, t.byte p j = if p = s.sess.activePage ∧ j = s.sess.offset then b else s.byte p j

/-- A byte written to a read-only page is NACKed and changes nothing (that no flag is set is the spec's decision D13;
40_bus_state_machine.md section 4). -/
def Obligations.ReadOnlyPageNacksByte : Prop :=
  ∀ (s : State) (b : Byte) (i : Instr), i = .dataRo b ∨ i = .evDataW b → s.sess.state = .readOnly →
    exec i s = .next { s with out := { response := .nack } }

/-- A byte written in `Error` is NACKed and no state changes (that no flag is set is the spec's decision D13; 40_bus_state_machine.md section 4). -/
def Obligations.ErrorStateNacksByte : Prop :=
  ∀ (s : State) (b : Byte) (i : Instr), i = .dataErr b ∨ i = .evDataW b → s.sess.state = .error →
    exec i s = .next { s with out := { response := .nack } }

/-- Reading `k + 1` bytes in a row delivers, last, the byte `k` past the start modulo the page's length and leaves the cursor one further, modulo
the length; nothing else changes (20_memory.md section 2; the reading states are the spec's decision D8, that a read has no other effect its D33).
-/
def Obligations.StreamingReadWraps : Prop :=
  ∀ (s : State) (k : Nat), s.Inv → s.sess.state.servesRead = true →
    ∃ t, execAll (List.replicate (k + 1) .evDataR) s = .next t ∧
      t.sess.offset.toNat = (s.sess.offset.toNat + (k + 1)) % s.cfg.len s.sess.activePage ∧
      t = { s with
            sess := { s.sess with offset := t.sess.offset }
            out :=
              { response := .data (s.byte s.sess.activePage
                  (BitVec.ofNat 8 ((s.sess.offset.toNat + k) % s.cfg.len s.sess.activePage))) } }

/-- Writing any bytes in a row stores each at the start plus its position modulo the page's length, a later byte over an earlier one, leaves the
cursor the number of bytes further modulo the length, and changes no other byte (20_memory.md section 2, 40_bus_state_machine.md section 4). -/
def Obligations.StreamingWriteWraps : Prop :=
  ∀ (s : State) (b : Byte) (bs : List Byte), s.Inv → s.sess.state = .readWriteFirstByte ∨ s.sess.state = .readWrite →
    ∃ t, execAll ((b :: bs).map .evDataW) s = .next t ∧
      t.sess.offset.toNat = (s.sess.offset.toNat + (b :: bs).length) % s.cfg.len s.sess.activePage ∧
      t = { s with
            sess := { s.sess with state := .readWrite, offset := t.sess.offset }
            mem := t.mem
            out := { response := .ack } } ∧
      (∀ (j : Nat) (v : Byte), (b :: bs)[j]? = some v →
        (∀ k, j < k → k < (b :: bs).length →
          (s.sess.offset.toNat + k) % s.cfg.len s.sess.activePage ≠ (s.sess.offset.toNat + j) % s.cfg.len s.sess.activePage) →
        t.byte s.sess.activePage (BitVec.ofNat 8 ((s.sess.offset.toNat + j) % s.cfg.len s.sess.activePage)) = v) ∧
      ∀ p i : Byte,
        (p ≠ s.sess.activePage ∨
          ∀ k, k < (b :: bs).length → i.toNat ≠ (s.sess.offset.toNat + k) % s.cfg.len s.sess.activePage) →
        t.byte p i = s.byte p i

/-- A NACK has four causes and no other: an address phase while a command awaits pickup (also one whose restart posts a command), an address byte
out of range, a byte for a read-only page, a byte in Error (60_exceptions.md section 1; that there is no other is its decision D13, the ACK of an
address byte in range its D6, the post at a restart its D5). -/
def Obligations.NackCauses : Prop :=
  ∀ s t : State, s.Inv → ∀ i : Instr, (i = .evAddrW ∨ i = .evAddrR ∨ ∃ b, i = .evDataW b) → exec i s = .next t →
    (t.out.response = .ack ∨ t.out.response = .nack) ∧
    (t.out.response = .nack ↔
      ((i = .evAddrW ∨ i = .evAddrR) ∧ t.sess.state = .ioFinish) ∨
      ((∃ b, i = .evDataW b) ∧ (t.sess.state = .error ∨ t.sess.state = .readOnly ∧ s.sess.state = .readOnly)))

/-! ### The worker and the commands -/

/-- The pickup frees the bus and takes the command; with nothing to pick up the iteration does nothing (42_worker_commands.md section 1; the
worker's steps are the spec's decision D16). That the row W.PICKUP, executed in phase Poll outside its own condition, is that iteration, a next
state with no change, is the model's reading (log entry 15). -/
def Obligations.PickupFreesTheBus : Prop :=
  ∀ s : State, s.w.phase = .poll →
    (s.sess.state = .ioFinish →
      exec .wPickup s = .next
        { s with
          sess := { s.sess with state := .idle }
          w := { s.w with phase := .mark, cmd := s.ctx.command }
          out := {} }) ∧
    (s.sess.state ≠ .ioFinish → exec .wPickup s = .next { s with out := {} })

/-- Before dispatch the status code becomes InProgress, the low nibble kept. -/
def Obligations.MarkSetsInProgress : Prop :=
  ∀ s : State, s.w.phase = .mark →
    ∃ t, exec .wMark s = .next t ∧
      t = { s with w := { s.w with phase := .exec, k := 0, hit := false }, mem := t.mem, out := {} } ∧
      ∀ p i : Byte, t.byte p i = if p = 0 ∧ i = 0 then 0x10 ||| (s.byte 0 0 &&& 0x0F) else s.byte p i

/-- W.EXEC executes the row of the command code in `w.cmd`, and the reserved row's effect for the code 0, which only a driver's early StatusUpdate
can leave there (42_worker_commands.md sections 1 and 2; codes 0 and 4 to 7 by the spec's decision D17, the worker's steps by D16; the code 0 at the
worker: log entry 12). -/
def Obligations.ExecDispatchesOnCode : Prop :=
  ∀ s : State, s.w.phase = .exec →
    ∃ t, exec .wExec s = .next t ∧
      (s.w.cmd.toNat = 0 → t = { s with w := { s.w with result := 4, phase := .report }, out := {} }) ∧
      (s.w.cmd.toNat = 1 → exec .cmdSetPage s = .next t) ∧
      (s.w.cmd.toNat = 2 → exec .cmdSetDevAddr s = .next t) ∧
      (s.w.cmd.toNat = 3 → exec .cmdReset s = .next t) ∧
      (4 ≤ s.w.cmd.toNat → s.w.cmd.toNat < 8 → exec (.cmdReserved (s.w.cmd.setWidth 2)) s = .next t) ∧
      (8 ≤ s.w.cmd.toNat → exec (.cmdExt s.w.cmd) s = .next t)

/-- SetPage: the sticky page becomes `params[0]` when `0 < params[0] < N`, with Success; otherwise ErrorArgument and no change
(42_worker_commands.md section 2; that the parameter is read now is the spec's decision D25). -/
def Obligations.SetPageCommand : Prop :=
  ∀ s : State, s.w.phase = .exec → s.w.cmd = 1 →
    exec .cmdSetPage s = .next
      (if 0 < (s.byte 0 3).toNat ∧ (s.byte 0 3).toNat < s.cfg.pageCount then
        { s with sess := { s.sess with page := s.byte 0 3 }, w := { s.w with result := 0, phase := .report }, out := {} }
       else { s with w := { s.w with result := 5, phase := .report }, out := {} })

/-- SetDeviceAddress: zero and even parameters give ErrorArgument and change nothing; an odd one is stored, with one non-volatile write and only if
it differs, and the live address is reloaded (operand, write and reload are the spec's decision D19, the late read of the parameter its D25;
42_worker_commands.md section 2). -/
def Obligations.SetDevAddrCommand : Prop :=
  ∀ s : State, s.w.phase = .exec → s.w.cmd = 2 →
    exec .cmdSetDevAddr s = .next
      (if (s.byte 0 3).toNat % 2 = 0 then { s with w := { s.w with result := 5, phase := .report }, out := {} }
       else
        { s with
          nvm := s.byte 0 3
          devAddr := s.cfg.loadAddr (s.byte 0 3)
          w := { s.w with result := 0, phase := .report }
          out := { nvmWrite := if s.nvm = s.byte 0 3 then none else some (s.byte 0 3) } })

/-- The Reset command restarts the block: the state of a reset, with the Restart output and no report (42_worker_commands.md section 2,
70_reset_and_hazards.md section 1). That it leaves the same state as a reset is the spec's decision D32, the reset values its decision D14 (log
entries 18 and 22). -/
def Obligations.ResetCommandRestarts : Prop :=
  ∀ s : State, s.w.phase = .exec → s.w.cmd = 3 →
    ∃ t, exec .reset s = .next t ∧ exec .cmdReset s = .next { t with out := { restart := true } } ∧ t.w.phase = .poll

/-- The reserved codes 4 to 7 give ErrorCommand without looking at the table (the spec's decision D17; 42_worker_commands.md section 2). -/
def Obligations.ReservedCodeIsErrorCommand : Prop :=
  ∀ (s : State) (low : BitVec 2), s.w.phase = .exec → s.w.cmd.toNat = 4 + low.toNat →
    exec (.cmdReserved low) s = .next { s with w := { s.w with result := 4, phase := .report }, out := {} }

/-- One step of an extension command: the entry at `w.k` is examined and its handler invoked when it matches; it returns a free value, or never
returns and keeps the worker (log entries 13 and 14); past the table the scan closes (one step for each entry is the spec's decision D16, the last
return D18; 42_worker_commands.md section 3, 60_exceptions.md section 6). -/
def Obligations.ExtensionStep : Prop :=
  ∀ (s : State) (code : Byte), s.w.phase = .exec → s.w.cmd = code → 8 ≤ code.toNat →
    (s.w.hung = false → ∀ e, s.cfg.cmdTable[s.w.k]? = some e → e.mask &&& code = e.pattern →
      exec (.cmdExt code) s = .next
        { s with
          w :=
            if Config.handlerReturns s.draws e.handler code = true then
              { s.w with result := Config.handlerReturn s.draws e.handler code, hit := true, k := s.w.k + 1 }
            else { s.w with hung := true }
          draws := s.draws + 1
          out := { handler := some e.handler } }) ∧
    (s.w.hung = false → ∀ e, s.cfg.cmdTable[s.w.k]? = some e → e.mask &&& code ≠ e.pattern →
      exec (.cmdExt code) s = .next { s with w := { s.w with k := s.w.k + 1 }, out := {} }) ∧
    (s.w.hung = false → s.cfg.cmdTable.length ≤ s.w.k →
      exec (.cmdExt code) s = .next
        { s with w := { s.w with result := if s.w.hit then s.w.result else 4, phase := .report }, out := {} }) ∧
    (s.w.hung = true → exec (.cmdExt code) s = .next { s with out := {} })

/-- A whole extension command, one step for each table entry and the closing step. Either every matching handler returns, and the result is the
return of the LAST one, or ErrorCommand when none matches; or the first that never returns keeps the worker at its entry, in phase Exec, after every
earlier one has returned. Returns, and whether there is one, are free values (42_worker_commands.md section 3, 60_exceptions.md section 6; D16,
D18; log entries 13 and 14). -/
def Obligations.ExtensionScanReportsLastMatch : Prop :=
  ∀ s : State, s.w.phase = .exec → 8 ≤ s.w.cmd.toNat → s.w.k = 0 → s.w.hit = false → s.w.hung = false →
    ∃ t, execAll (List.replicate (s.cfg.cmdTable.length + 1) .wExec) s = .next t ∧
      ((AllReturn s.draws s.w.cmd (s.cfg.cmdTable.filter fun e => e.mask &&& s.w.cmd == e.pattern) ∧
        t = { s with
              w :=
                { s.w with
                  result := lastReturn s.draws s.w.cmd 4 (s.cfg.cmdTable.filter fun e => e.mask &&& s.w.cmd == e.pattern)
                  phase := .report
                  k := s.cfg.cmdTable.length
                  hit := s.cfg.cmdTable.any fun e => e.mask &&& s.w.cmd == e.pattern }
              draws := s.draws + (s.cfg.cmdTable.filter fun e => e.mask &&& s.w.cmd == e.pattern).length
              out := {} }) ∨
       ∃ (k : Nat) (e : CmdEntry) (before : List CmdEntry),
        s.cfg.cmdTable[k]? = some e ∧ e.mask &&& s.w.cmd = e.pattern ∧
        before = (s.cfg.cmdTable.take k).filter (fun e => e.mask &&& s.w.cmd == e.pattern) ∧
        AllReturn s.draws s.w.cmd before ∧ Config.handlerReturns (s.draws + before.length) e.handler s.w.cmd = false ∧
        t = { s with
              w :=
                { s.w with
                  result := lastReturn s.draws s.w.cmd s.w.result before
                  k := k
                  hit := !before.isEmpty
                  hung := true }
              draws := s.draws + before.length + 1
              out := {} })

/-- A worker inside a handler that never returns stays there whatever any agent does, but for a restart from outside, the only recovery: its command
stays in flight unless a driver reports a terminal code, and while it is in flight `IoFinish` is never entered (60_exceptions.md section 6, the
spec's resolution C8 and decision D31; the model's `w.hung`, log entry 14). -/
def Obligations.HungHandlerStopsTheWorker : Prop :=
  (∀ (s t : State) (i : Instr), s.Inv → s.w.hung = true → i ≠ .reset → exec i s = .next t →
    t.w = s.w ∧
    (s.ctx.command ≠ 0 → (∀ code, i = .drvStatusUpdate code → code = 1) → t.ctx.command = s.ctx.command) ∧
    (s.ctx.command ≠ 0 → s.sess.state ≠ .ioFinish → t.sess.state ≠ .ioFinish)) ∧
  ∀ s : State, ∃ t, exec .reset s = .next t ∧ t.w.hung = false ∧ t.w.phase = .poll ∧ t.sess.state = .idle ∧ t.ctx.command = 0

/-- The report merges the result into the status byte; a terminal code ends the command, InProgress leaves it in flight. -/
def Obligations.ReportMergesResult : Prop :=
  ∀ s : State, s.w.phase = .report →
    ∃ t, exec .wReport s = .next t ∧
      t = { s with
            w := { s.w with phase := .poll }
            ctx := if s.w.result = 1 then s.ctx else { s.ctx with lastCommand := s.ctx.command, command := 0 }
            mem := t.mem
            out := {} } ∧
      ∀ p i : Byte, t.byte p i =
        if p = 0 ∧ i = 0 then BitVec.ofNat 8 (16 * s.w.result.toNat + (s.byte 0 0).toNat % 16) else s.byte p i

/-! ### The drivers -/

/-- `StatusUpdate(code)` is `Merge(code)`: the code nibble replaced, the low nibble kept, and, unless the code is InProgress, `lastCommand`
latched and `command` cleared; at any time, for any code. -/
def Obligations.StatusUpdateMerges : Prop :=
  ∀ (s : State) (code : Nibble),
    ∃ t, exec (.drvStatusUpdate code) s = .next t ∧
      t = { s with
            ctx := if code = 1 then s.ctx else { s.ctx with lastCommand := s.ctx.command, command := 0 }
            mem := t.mem
            out := {} } ∧
      ∀ p i : Byte, t.byte p i =
        if p = 0 ∧ i = 0 then BitVec.ofNat 8 (16 * code.toNat + (s.byte 0 0).toNat % 16) else s.byte p i

/-- A driver's write of one byte of a driver page, and what is not a driver's move (the closed list is the spec's decision D24, and that the model
refuses every other target is log entry 17; 42_worker_commands.md section 5). -/
def Obligations.DriverWriteStoresOneByte : Prop :=
  ∀ (s : State) (p i v : Byte),
    (2 ≤ p.toNat → p.toNat < s.cfg.pageCount → i.toNat < s.cfg.len p →
      ∃ t, exec (.drvWrite p i v) s = .next t ∧ t = { s with mem := t.mem, out := {} } ∧
        ∀ q j : Byte, t.byte q j = if q = p ∧ j = i then v else s.byte q j) ∧
    (p.toNat < 2 ∨ s.cfg.pageCount ≤ p.toNat ∨ s.cfg.len p ≤ i.toNat →
      exec (.drvWrite p i v) s = .refused .notADriverMove)

/-- A driver's read gives the driver the byte and has no effect on the block (the closed list of moves is the spec's decision D24;
42_worker_commands.md section 5). -/
def Obligations.DriverReadHasNoEffect : Prop :=
  ∀ (s : State) (p i : Byte), p.toNat < s.cfg.pageCount → i.toNat < s.cfg.len p →
    exec (.drvRead p i) s = .next { s with out := { driverRead := some (s.byte p i) } }

/-- A driver's write of the control page's txCommand byte writes byte 1 of page 0 only (D24; 42_worker_commands.md section 5). -/
def Obligations.DriverWritesTxCommand : Prop :=
  ∀ (s : State) (v : Byte),
    ∃ t, exec (.drvTxCmd v) s = .next t ∧ t = { s with mem := t.mem, out := {} } ∧
      ∀ p i : Byte, t.byte p i = if p = 0 ∧ i = 1 then v else s.byte p i

/-! ### The whole machine -/

/-- Every step keeps the invariant: pages below `N`, cursor inside its page, canonical memory, a writable page in the write states, `w.k` at most
`T`, a worker inside a handler only in an extension command (10_state.md sections 8 and 10; the cursor after a faulting address byte is the spec's
decision D6; log entries 14 and 16). -/
def Obligations.StepKeepsInvariant : Prop :=
  ∀ s t : State, s.Inv → step s = .next t → t.Inv

/-- At most one command is in flight: no step replaces a command in flight by another, and a second post is rejected, reported by BUSERR, and
leaves the first one's context alone. -/
def Obligations.AtMostOneCommandInFlight : Prop :=
  (∀ s t : State, step s = .next t → s.ctx.command ≠ 0 → t.ctx.command = s.ctx.command ∨ t.ctx.command = 0) ∧
  (∀ (s : State) (l : Loc), s.Inv → s.sess.state = .readWrite → s.cfg.cmdFieldLoc s.sess.activePage = some l →
    s.byte l.page l.off ≠ 0 → s.ctx.command ≠ 0 →
    ∃ t, exec .evStop s = .next t ∧ t.ctx = s.ctx ∧ t.sess.state = .idle ∧ statusBusErr (t.byte 0 0) = true)

/-- From a state that meets the invariant nothing faults but a driver's read outside its page (20_memory.md section 1, 10_state.md section 10; the
fault itself is the model's choice, log entry 17). -/
def Obligations.InvariantStatesNeverFault : Prop :=
  ∀ (s : State) (i : Instr) (x : Fault), s.Inv → exec i s = .fault x → ∃ p o, i = .drvRead p o ∧ s.cfg.len p ≤ o.toNat

/-- No step changes the configuration: registry, dispatch table and markers are immutable (10_state.md section 4, 20_memory.md section 5; the
configuration as a field of the state is the model's, log entry 1). -/
def Obligations.ConfigurationIsImmutable : Prop :=
  ∀ s t : State, step s = .next t → t.cfg = s.cfg

/-- Only SetPage and a restart change the sticky page (10_state.md section 2; that the Reset command is a reset is the spec's decision D32). -/
def Obligations.OnlySetPageMovesTheStickyPage : Prop :=
  ∀ (i : Instr) (s t : State), exec i s = .next t → t.sess.page ≠ s.sess.page →
    i = .cmdSetPage ∨ i = .cmdReset ∨ i = .reset ∨ (i = .wExec ∧ (s.w.cmd.toNat = 1 ∨ s.w.cmd.toNat = 3))

/-- Every instruction makes a non-volatile write exactly when `nvm` changes, of the byte it changes to; only SetDeviceAddress does, and the live
address changes only there and at a restart (10_state.md section 7, 20_memory.md section 5; the spec's decisions D19 and, for the Reset command,
D32). -/
def Obligations.NonVolatileWritesAreMinimal : Prop :=
  ∀ (i : Instr) (s t : State), exec i s = .next t →
    t.out.nvmWrite = (if t.nvm = s.nvm then none else some t.nvm) ∧
    (t.nvm ≠ s.nvm → i = .cmdSetDevAddr ∨ (i = .wExec ∧ s.w.cmd.toNat = 2)) ∧
    (t.devAddr ≠ s.devAddr →
      i = .cmdSetDevAddr ∨ i = .cmdReset ∨ i = .reset ∨ (i = .wExec ∧ (s.w.cmd.toNat = 2 ∨ s.w.cmd.toNat = 3)))

/-- No step writes the device-info page, in a configuration that puts no command field there (10_state.md section 6; 00_scope.md section 4 admits
such a field, log entry 19; that no driver move writes it is the spec's decision D24). -/
def Obligations.DeviceInfoPageIsNeverWritten : Prop :=
  ∀ s t : State, s.Inv → s.cfg.NoFieldIn 1 → s.DevInfoIntact → step s = .next t → t.DevInfoIntact

/-- The flags BUSERR and BUSY are sticky: only a bus write or a restart clears one, in a configuration whose command fields are not the status byte
(60_exceptions.md section 1; the spec's decisions D12, D24 and D32; the premise: log entry 19). -/
def Obligations.StatusFlagsAreSticky : Prop :=
  ∀ (i : Instr) (s t : State), s.cfg.NoFieldAtStatus → exec i s = .next t →
    (∀ b, i ≠ .evDataW b ∧ i ≠ .dataFirst b ∧ i ≠ .dataNext b) → i ≠ .cmdReset → i ≠ .reset →
    ¬ (i = .wExec ∧ s.w.cmd.toNat = 3) →
    (statusBusErr s.status = true → statusBusErr t.status = true) ∧ (statusBusy s.status = true → statusBusy t.status = true)

/-- While a command stays in flight nothing but a bus write changes the code InProgress (41_command_posting_status.md section 3), in a configuration
whose command fields are not the status byte (log entry 19). -/
def Obligations.InFlightStatusStaysInProgress : Prop :=
  ∀ (i : Instr) (s t : State), s.cfg.NoFieldAtStatus → exec i s = .next t →
    (∀ b, i ≠ .evDataW b ∧ i ≠ .dataFirst b ∧ i ≠ .dataNext b) →
    s.ctx.command ≠ 0 → t.ctx.command ≠ 0 → statusCode s.status = 1 → statusCode t.status = 1

/-- From a post to the pickup only the pickup and a restart leave `IoFinish`, and every address phase is NACKed (40_bus_state_machine.md sections 2
and 5, 41_command_posting_status.md section 3, 70_reset_and_hazards.md section 3). That a STOP or a NACKed address phase does not leave `IoFinish`
is the spec's decision D9, that the Reset command is a reset its decision D32 (log entry 22). -/
def Obligations.IoFinishGatesTheBus : Prop :=
  ∀ (i : Instr) (s t : State), s.sess.state = .ioFinish → exec i s = .next t →
    (i = .evAddrW ∨ i = .evAddrR → t.out.response = .nack) ∧
    (t.sess.state = .ioFinish ∨ i = .wPickup ∨ i = .cmdReset ∨ i = .reset ∨ (i = .wExec ∧ s.w.cmd.toNat = 3))

/-- With a posted command that the worker never picks up, and while only address phases and STOPs occur (no driver moves and no reset), every
address phase is NACKed, however many come, and the state of the block stays as it is (60_exceptions.md section 6, 70_reset_and_hazards.md section
3, 40_bus_state_machine.md section 2). That a STOP and a NACKed address phase change nothing is the spec's decision D9, that an address phase leaves
page and cursor its decision D7, that nothing forces the pickup its decision D31 (log entries 21 and 22). -/
def Obligations.WedgedWorkerKeepsTheBusNacked : Prop :=
  ∀ (s : State) (is : List Instr) (i : Instr), s.sess.state = .ioFinish →
    (∀ j ∈ is, j = .evAddrW ∨ j = .evAddrR ∨ j = .evStop) → i = .evAddrW ∨ i = .evAddrR →
    execAll (is ++ [i]) s = .next { s with out := { response := .nack } }

/-- A transaction that writes only an address byte posts nothing, changes no byte, and ends in Idle (40_bus_state_machine.md section 2,
70_reset_and_hazards.md section 3; that an out-of-range byte sets no flag is the spec's decision D13). -/
def Obligations.AddressOnlyTransactionPostsNothing : Prop :=
  ∀ (s : State) (b : Byte), s.Inv → s.sess.state = .idle →
    ∃ t, execAll [.evAddrW, .evDataW b, .evStop] s = .next t ∧
      t = { s with sess := { s.sess with activePage := t.sess.activePage, offset := t.sess.offset }, out := {} }

/-- End to end: from an idle bus and worker, the transaction that writes command 1 and the parameter `p` to the control page, then the worker's four
steps, leave SetPage done: the sticky page is `p` and the code Success when `0 < p < N`, otherwise the page is unchanged and the code ErrorArgument;
the flags are kept, the command field is 0, and no command is in flight (95_test_vectors.md S6, P1; 30_encoding.md section 6;
40_bus_state_machine.md sections 2 and 4, 41_command_posting_status.md sections 1 and 2, 42_worker_commands.md sections 1, 2 and 4; the four worker
steps are the spec's decision D16, the page index in `ctx.lastAddress` its D15, the late read of the parameter its D25). -/
def Obligations.SetPageEndToEnd : Prop :=
  ∀ (s : State) (m : Nibble) (p : Byte), m ∈ s.cfg.marker → s.sess.state = .idle → s.ctx.command = 0 → s.w.phase = .poll →
    ∃ t, execAll
        [.evAddrW, .evDataW (m ++ (2 : Nibble)), .evDataW 1, .evDataW p, .evStop, .wPickup, .wMark, .wExec, .wReport] s = .next t ∧
      t.sess.page = (if 0 < p.toNat ∧ p.toNat < s.cfg.pageCount then p else s.sess.page) ∧
      t.sess.state = .idle ∧
      t.ctx = { command := 0, lastCommand := 1, lastAddress := 0 } ∧
      t.nvm = s.nvm ∧ t.devAddr = s.devAddr ∧
      ∀ q i : Byte, t.byte q i =
        if q = 0 ∧ i = 0 then
          (if 0 < p.toNat ∧ p.toNat < s.cfg.pageCount then 0x00 else 0x50) ||| (s.byte 0 0 &&& 0x0F)
        else if q = 0 ∧ i = 2 then 0
        else if q = 0 ∧ i = 3 then p
        else s.byte q i
end

