-- ==== Sys2Proof/Laws/Memory.lean ====
section
/-! SUPPORT. The laws of the memory list: a read after a write, the canonical form every write keeps, and that equal memories are equal lists. -/

namespace Sys2Proof.Memory

variable {d : Nat → Byte} {m m' : List Host.Cell} {a b : Nat} {v : Byte}

theorem get_of_not_listed (h : ∀ c ∈ m, c.1 ≠ a) : get d m a = d a := by
  induction m with
  | nil => rfl
  | cons c m ih => simp_all [get]

theorem not_listed_erase : ∀ c ∈ erase m a, c.1 ≠ a := by
  intro c hc
  simpa using (List.mem_filter.mp hc).2

theorem get_erase_ne (h : b ≠ a) : get d (erase m a) b = get d m b := by
  induction m with
  | nil => rfl
  | cons c m ih =>
    by_cases hc : c.1 = a
    · have : erase (c :: m) a = erase m a := by simp [erase, hc]
      rw [this, ih]
      simp [get, hc, h.symm]
    · have : erase (c :: m) a = c :: erase m a := by simp [erase, hc]
      rw [this]
      simp [get, ih]

theorem get_insert (h : ∀ c ∈ m, c.1 ≠ a) : get d (insert (a, v) m) b = if b = a then v else get d m b := by
  induction m with
  | nil => simp [insert, get, eq_comm]
  | cons c m ih =>
    have hc : c.1 ≠ a := h c (by simp)
    have ih' := ih fun e he => h e (by simp [he])
    unfold insert
    split
    · simp [get, eq_comm]
    · rw [get, ih', get]
      by_cases hb : b = a
      · subst hb
        simp [hc]
      · simp [hb]

/-- A read after a write, at the same address and at every other. -/
theorem get_set : get d (set d m a v) b = if b = a then v else get d m b := by
  unfold set
  split
  · next hv =>
    by_cases hb : b = a
    · subst hb
      simp [hv, get_of_not_listed not_listed_erase]
    · simp [hb, get_erase_ne hb]
  · rw [get_insert not_listed_erase]
    by_cases hb : b = a
    · simp [hb]
    · simp [hb, get_erase_ne hb]

theorem mem_insert {c e : Host.Cell} : e ∈ insert c m ↔ e = c ∨ e ∈ m := by
  induction m with
  | nil => simp [insert]
  | cons x m ih =>
    unfold insert
    split
    · simp
    · simp only [List.mem_cons, ih]
      tauto

/-- Which cells a write leaves: the one written and old ones. -/
theorem mem_set {c : Host.Cell} (h : c ∈ set d m a v) : c = (a, v) ∨ c ∈ m := by
  unfold set at h
  split at h
  · exact .inr (List.mem_of_mem_filter h)
  · rcases mem_insert.mp h with h | h
    · exact .inl h
    · exact .inr (List.mem_of_mem_filter h)

theorem wf_cons {c : Host.Cell} : wf d (c :: m) = true ↔ c.2 ≠ d c.1 ∧ (∀ e ∈ m, c.1 < e.1) ∧ wf d m = true := by
  simp [wf, and_assoc]

theorem wf_erase (h : wf d m = true) : wf d (erase m a) = true := by
  induction m with
  | nil => rfl
  | cons c m ih =>
    obtain ⟨h1, h2, h3⟩ := wf_cons.mp h
    by_cases hc : c.1 = a
    · have : erase (c :: m) a = erase m a := by simp [erase, hc]
      rw [this]
      exact ih h3
    · have : erase (c :: m) a = c :: erase m a := by simp [erase, hc]
      rw [this]
      exact wf_cons.mpr ⟨h1, fun e he => h2 e (List.mem_of_mem_filter he), ih h3⟩

theorem wf_insert (hv : v ≠ d a) (hn : ∀ c ∈ m, c.1 ≠ a) (h : wf d m = true) : wf d (insert (a, v) m) = true := by
  induction m with
  | nil => simpa [insert, wf] using hv
  | cons c m ih =>
    obtain ⟨h1, h2, h3⟩ := wf_cons.mp h
    unfold insert
    split
    · next hlt =>
      refine wf_cons.mpr ⟨hv, ?_, h⟩
      intro e he
      rcases List.mem_cons.mp he with rfl | he
      · exact hlt
      · exact Nat.lt_trans hlt (h2 e he)
    · next hlt =>
      have hca : c.1 ≠ a := hn c (by simp)
      refine wf_cons.mpr ⟨h1, ?_, ih (fun e he => hn e (by simp [he])) h3⟩
      intro e he
      rcases mem_insert.mp he with rfl | he
      · simp only at hlt ⊢
        omega
      · exact h2 e he

/-- Every write keeps the canonical form. -/
theorem wf_set (h : wf d m = true) : wf d (set d m a v) = true := by
  unfold set
  split
  · exact wf_erase h
  · next hv => exact wf_insert hv not_listed_erase (wf_erase h)

theorem get_head {c : Host.Cell} : get d (c :: m) c.1 = c.2 := by simp [get]

theorem get_below {c : Host.Cell} (h : wf d (c :: m) = true) (hb : b < c.1) : get d (c :: m) b = d b := by
  refine get_of_not_listed fun e he => ?_
  rcases List.mem_cons.mp he with rfl | he
  · omega
  · have := (wf_cons.mp h).2.1 e he
    omega

/-- Canonical lists that read alike are the same list. -/
theorem ext_of_get (h : wf d m = true) (h' : wf d m' = true) (hg : ∀ a, get d m a = get d m' a) : m = m' := by
  induction m generalizing m' with
  | nil =>
    cases m' with
    | nil => rfl
    | cons e m' => exact absurd ((get_head.symm.trans (hg e.1).symm)) (wf_cons.mp h').1
  | cons c m ih =>
    cases m' with
    | nil => exact absurd (get_head.symm.trans (hg c.1)) (wf_cons.mp h).1
    | cons e m' =>
      obtain ⟨h1, h2, h3⟩ := wf_cons.mp h
      obtain ⟨h1', h2', h3'⟩ := wf_cons.mp h'
      have hk : c.1 = e.1 := by
        rcases Nat.lt_trichotomy c.1 e.1 with hlt | heq | hlt
        · exact absurd (get_head.symm.trans ((hg c.1).trans (get_below h' hlt))) h1
        · exact heq
        · exact absurd (get_head.symm.trans ((hg e.1).symm.trans (get_below h hlt))) h1'
      have hv : c.2 = e.2 := by
        have := hg c.1
        rw [get_head, hk, get_head] at this
        exact this
      have hce : c = e := Prod.ext hk hv
      subst hce
      congr 1
      refine ih h3 h3' fun x => ?_
      by_cases hx : c.1 = x
      · subst hx
        rw [get_of_not_listed fun y hy => by have := h2 y hy; omega,
          get_of_not_listed fun y hy => by have := h2' y hy; omega]
      · simpa [get, hx] using hg x

end Sys2Proof.Memory
end

