-- ==== Sys2Proof/Laws/State.lean ====
section
/-! SUPPORT. One lemma for each field under each record update of the state, and the memory a state update keeps. -/

namespace Sys2Proof.Machine.State

@[simp] theorem withSess_cfg (s : State) (x : Sess) : (s.withSess x).cfg = s.cfg := rfl
@[simp] theorem withSess_sess (s : State) (x : Sess) : (s.withSess x).sess = x := rfl
@[simp] theorem withSess_ctx (s : State) (x : Sess) : (s.withSess x).ctx = s.ctx := rfl
@[simp] theorem withSess_mem (s : State) (x : Sess) : (s.withSess x).mem = s.mem := rfl
@[simp] theorem withSess_nvm (s : State) (x : Sess) : (s.withSess x).nvm = s.nvm := rfl
@[simp] theorem withSess_devAddr (s : State) (x : Sess) : (s.withSess x).devAddr = s.devAddr := rfl
@[simp] theorem withSess_w (s : State) (x : Sess) : (s.withSess x).w = s.w := rfl
@[simp] theorem withSess_out (s : State) (x : Sess) : (s.withSess x).out = s.out := rfl
@[simp] theorem withSess_queue (s : State) (x : Sess) : (s.withSess x).queue = s.queue := rfl
@[simp] theorem withSess_draws (s : State) (x : Sess) : (s.withSess x).draws = s.draws := rfl
@[simp] theorem withSess_turns (s : State) (x : Sess) : (s.withSess x).turns = s.turns := rfl

@[simp] theorem withCtx_cfg (s : State) (x : Ctx) : (s.withCtx x).cfg = s.cfg := rfl
@[simp] theorem withCtx_sess (s : State) (x : Ctx) : (s.withCtx x).sess = s.sess := rfl
@[simp] theorem withCtx_ctx (s : State) (x : Ctx) : (s.withCtx x).ctx = x := rfl
@[simp] theorem withCtx_mem (s : State) (x : Ctx) : (s.withCtx x).mem = s.mem := rfl
@[simp] theorem withCtx_nvm (s : State) (x : Ctx) : (s.withCtx x).nvm = s.nvm := rfl
@[simp] theorem withCtx_devAddr (s : State) (x : Ctx) : (s.withCtx x).devAddr = s.devAddr := rfl
@[simp] theorem withCtx_w (s : State) (x : Ctx) : (s.withCtx x).w = s.w := rfl
@[simp] theorem withCtx_out (s : State) (x : Ctx) : (s.withCtx x).out = s.out := rfl
@[simp] theorem withCtx_queue (s : State) (x : Ctx) : (s.withCtx x).queue = s.queue := rfl
@[simp] theorem withCtx_draws (s : State) (x : Ctx) : (s.withCtx x).draws = s.draws := rfl
@[simp] theorem withCtx_turns (s : State) (x : Ctx) : (s.withCtx x).turns = s.turns := rfl

@[simp] theorem withMem_cfg (s : State) (x : List Host.Cell) : (s.withMem x).cfg = s.cfg := rfl
@[simp] theorem withMem_sess (s : State) (x : List Host.Cell) : (s.withMem x).sess = s.sess := rfl
@[simp] theorem withMem_ctx (s : State) (x : List Host.Cell) : (s.withMem x).ctx = s.ctx := rfl
@[simp] theorem withMem_mem (s : State) (x : List Host.Cell) : (s.withMem x).mem = x := rfl
@[simp] theorem withMem_nvm (s : State) (x : List Host.Cell) : (s.withMem x).nvm = s.nvm := rfl
@[simp] theorem withMem_devAddr (s : State) (x : List Host.Cell) : (s.withMem x).devAddr = s.devAddr := rfl
@[simp] theorem withMem_w (s : State) (x : List Host.Cell) : (s.withMem x).w = s.w := rfl
@[simp] theorem withMem_out (s : State) (x : List Host.Cell) : (s.withMem x).out = s.out := rfl
@[simp] theorem withMem_queue (s : State) (x : List Host.Cell) : (s.withMem x).queue = s.queue := rfl
@[simp] theorem withMem_draws (s : State) (x : List Host.Cell) : (s.withMem x).draws = s.draws := rfl
@[simp] theorem withMem_turns (s : State) (x : List Host.Cell) : (s.withMem x).turns = s.turns := rfl

@[simp] theorem withNvm_cfg (s : State) (x : Byte) : (s.withNvm x).cfg = s.cfg := rfl
@[simp] theorem withNvm_sess (s : State) (x : Byte) : (s.withNvm x).sess = s.sess := rfl
@[simp] theorem withNvm_ctx (s : State) (x : Byte) : (s.withNvm x).ctx = s.ctx := rfl
@[simp] theorem withNvm_mem (s : State) (x : Byte) : (s.withNvm x).mem = s.mem := rfl
@[simp] theorem withNvm_nvm (s : State) (x : Byte) : (s.withNvm x).nvm = x := rfl
@[simp] theorem withNvm_devAddr (s : State) (x : Byte) : (s.withNvm x).devAddr = s.devAddr := rfl
@[simp] theorem withNvm_w (s : State) (x : Byte) : (s.withNvm x).w = s.w := rfl
@[simp] theorem withNvm_out (s : State) (x : Byte) : (s.withNvm x).out = s.out := rfl
@[simp] theorem withNvm_queue (s : State) (x : Byte) : (s.withNvm x).queue = s.queue := rfl
@[simp] theorem withNvm_draws (s : State) (x : Byte) : (s.withNvm x).draws = s.draws := rfl
@[simp] theorem withNvm_turns (s : State) (x : Byte) : (s.withNvm x).turns = s.turns := rfl

@[simp] theorem withDevAddr_cfg (s : State) (x : Byte) : (s.withDevAddr x).cfg = s.cfg := rfl
@[simp] theorem withDevAddr_sess (s : State) (x : Byte) : (s.withDevAddr x).sess = s.sess := rfl
@[simp] theorem withDevAddr_ctx (s : State) (x : Byte) : (s.withDevAddr x).ctx = s.ctx := rfl
@[simp] theorem withDevAddr_mem (s : State) (x : Byte) : (s.withDevAddr x).mem = s.mem := rfl
@[simp] theorem withDevAddr_nvm (s : State) (x : Byte) : (s.withDevAddr x).nvm = s.nvm := rfl
@[simp] theorem withDevAddr_devAddr (s : State) (x : Byte) : (s.withDevAddr x).devAddr = x := rfl
@[simp] theorem withDevAddr_w (s : State) (x : Byte) : (s.withDevAddr x).w = s.w := rfl
@[simp] theorem withDevAddr_out (s : State) (x : Byte) : (s.withDevAddr x).out = s.out := rfl
@[simp] theorem withDevAddr_queue (s : State) (x : Byte) : (s.withDevAddr x).queue = s.queue := rfl
@[simp] theorem withDevAddr_draws (s : State) (x : Byte) : (s.withDevAddr x).draws = s.draws := rfl
@[simp] theorem withDevAddr_turns (s : State) (x : Byte) : (s.withDevAddr x).turns = s.turns := rfl

@[simp] theorem withW_cfg (s : State) (x : Worker) : (s.withW x).cfg = s.cfg := rfl
@[simp] theorem withW_sess (s : State) (x : Worker) : (s.withW x).sess = s.sess := rfl
@[simp] theorem withW_ctx (s : State) (x : Worker) : (s.withW x).ctx = s.ctx := rfl
@[simp] theorem withW_mem (s : State) (x : Worker) : (s.withW x).mem = s.mem := rfl
@[simp] theorem withW_nvm (s : State) (x : Worker) : (s.withW x).nvm = s.nvm := rfl
@[simp] theorem withW_devAddr (s : State) (x : Worker) : (s.withW x).devAddr = s.devAddr := rfl
@[simp] theorem withW_w (s : State) (x : Worker) : (s.withW x).w = x := rfl
@[simp] theorem withW_out (s : State) (x : Worker) : (s.withW x).out = s.out := rfl
@[simp] theorem withW_queue (s : State) (x : Worker) : (s.withW x).queue = s.queue := rfl
@[simp] theorem withW_draws (s : State) (x : Worker) : (s.withW x).draws = s.draws := rfl
@[simp] theorem withW_turns (s : State) (x : Worker) : (s.withW x).turns = s.turns := rfl

@[simp] theorem withOut_cfg (s : State) (x : Out) : (s.withOut x).cfg = s.cfg := rfl
@[simp] theorem withOut_sess (s : State) (x : Out) : (s.withOut x).sess = s.sess := rfl
@[simp] theorem withOut_ctx (s : State) (x : Out) : (s.withOut x).ctx = s.ctx := rfl
@[simp] theorem withOut_mem (s : State) (x : Out) : (s.withOut x).mem = s.mem := rfl
@[simp] theorem withOut_nvm (s : State) (x : Out) : (s.withOut x).nvm = s.nvm := rfl
@[simp] theorem withOut_devAddr (s : State) (x : Out) : (s.withOut x).devAddr = s.devAddr := rfl
@[simp] theorem withOut_w (s : State) (x : Out) : (s.withOut x).w = s.w := rfl
@[simp] theorem withOut_out (s : State) (x : Out) : (s.withOut x).out = x := rfl
@[simp] theorem withOut_queue (s : State) (x : Out) : (s.withOut x).queue = s.queue := rfl
@[simp] theorem withOut_draws (s : State) (x : Out) : (s.withOut x).draws = s.draws := rfl
@[simp] theorem withOut_turns (s : State) (x : Out) : (s.withOut x).turns = s.turns := rfl

@[simp] theorem withQueue_cfg (s : State) (x : List Request) : (s.withQueue x).cfg = s.cfg := rfl
@[simp] theorem withQueue_sess (s : State) (x : List Request) : (s.withQueue x).sess = s.sess := rfl
@[simp] theorem withQueue_ctx (s : State) (x : List Request) : (s.withQueue x).ctx = s.ctx := rfl
@[simp] theorem withQueue_mem (s : State) (x : List Request) : (s.withQueue x).mem = s.mem := rfl
@[simp] theorem withQueue_nvm (s : State) (x : List Request) : (s.withQueue x).nvm = s.nvm := rfl
@[simp] theorem withQueue_devAddr (s : State) (x : List Request) : (s.withQueue x).devAddr = s.devAddr := rfl
@[simp] theorem withQueue_w (s : State) (x : List Request) : (s.withQueue x).w = s.w := rfl
@[simp] theorem withQueue_out (s : State) (x : List Request) : (s.withQueue x).out = s.out := rfl
@[simp] theorem withQueue_queue (s : State) (x : List Request) : (s.withQueue x).queue = x := rfl
@[simp] theorem withQueue_draws (s : State) (x : List Request) : (s.withQueue x).draws = s.draws := rfl
@[simp] theorem withQueue_turns (s : State) (x : List Request) : (s.withQueue x).turns = s.turns := rfl

@[simp] theorem withDraws_cfg (s : State) (x : Nat) : (s.withDraws x).cfg = s.cfg := rfl
@[simp] theorem withDraws_sess (s : State) (x : Nat) : (s.withDraws x).sess = s.sess := rfl
@[simp] theorem withDraws_ctx (s : State) (x : Nat) : (s.withDraws x).ctx = s.ctx := rfl
@[simp] theorem withDraws_mem (s : State) (x : Nat) : (s.withDraws x).mem = s.mem := rfl
@[simp] theorem withDraws_nvm (s : State) (x : Nat) : (s.withDraws x).nvm = s.nvm := rfl
@[simp] theorem withDraws_devAddr (s : State) (x : Nat) : (s.withDraws x).devAddr = s.devAddr := rfl
@[simp] theorem withDraws_w (s : State) (x : Nat) : (s.withDraws x).w = s.w := rfl
@[simp] theorem withDraws_out (s : State) (x : Nat) : (s.withDraws x).out = s.out := rfl
@[simp] theorem withDraws_queue (s : State) (x : Nat) : (s.withDraws x).queue = s.queue := rfl
@[simp] theorem withDraws_draws (s : State) (x : Nat) : (s.withDraws x).draws = x := rfl
@[simp] theorem withDraws_turns (s : State) (x : Nat) : (s.withDraws x).turns = s.turns := rfl

@[simp] theorem withTurns_cfg (s : State) (x : Nat) : (s.withTurns x).cfg = s.cfg := rfl
@[simp] theorem withTurns_sess (s : State) (x : Nat) : (s.withTurns x).sess = s.sess := rfl
@[simp] theorem withTurns_ctx (s : State) (x : Nat) : (s.withTurns x).ctx = s.ctx := rfl
@[simp] theorem withTurns_mem (s : State) (x : Nat) : (s.withTurns x).mem = s.mem := rfl
@[simp] theorem withTurns_nvm (s : State) (x : Nat) : (s.withTurns x).nvm = s.nvm := rfl
@[simp] theorem withTurns_devAddr (s : State) (x : Nat) : (s.withTurns x).devAddr = s.devAddr := rfl
@[simp] theorem withTurns_w (s : State) (x : Nat) : (s.withTurns x).w = s.w := rfl
@[simp] theorem withTurns_out (s : State) (x : Nat) : (s.withTurns x).out = s.out := rfl
@[simp] theorem withTurns_queue (s : State) (x : Nat) : (s.withTurns x).queue = s.queue := rfl
@[simp] theorem withTurns_draws (s : State) (x : Nat) : (s.withTurns x).draws = s.draws := rfl
@[simp] theorem withTurns_turns (s : State) (x : Nat) : (s.withTurns x).turns = x := rfl

@[simp] theorem withSess_byte (s : State) (x : Sess) (p i : Byte) : (s.withSess x).byte p i = s.byte p i := rfl
@[simp] theorem withCtx_byte (s : State) (x : Ctx) (p i : Byte) : (s.withCtx x).byte p i = s.byte p i := rfl
@[simp] theorem withNvm_byte (s : State) (x : Byte) (p i : Byte) : (s.withNvm x).byte p i = s.byte p i := rfl
@[simp] theorem withDevAddr_byte (s : State) (x : Byte) (p i : Byte) : (s.withDevAddr x).byte p i = s.byte p i := rfl
@[simp] theorem withW_byte (s : State) (x : Worker) (p i : Byte) : (s.withW x).byte p i = s.byte p i := rfl
@[simp] theorem withOut_byte (s : State) (x : Out) (p i : Byte) : (s.withOut x).byte p i = s.byte p i := rfl
@[simp] theorem withQueue_byte (s : State) (x : List Request) (p i : Byte) : (s.withQueue x).byte p i = s.byte p i := rfl
@[simp] theorem withDraws_byte (s : State) (x : Nat) (p i : Byte) : (s.withDraws x).byte p i = s.byte p i := rfl
@[simp] theorem withTurns_byte (s : State) (x : Nat) (p i : Byte) : (s.withTurns x).byte p i = s.byte p i := rfl

end Sys2Proof.Machine.State
end

