-- ==== Sys2Proof/Laws/Ops.lean ====
section
/-! SUPPORT. One lemma for each shared operation: what it can answer and what it changes. -/

namespace Sys2Proof.Machine

theorem locAddr_inj {p i q j : Byte} : locAddr p i = locAddr q j ↔ p = q ∧ i = j := by
  have hi := i.isLt
  have hj := j.isLt
  constructor
  · intro h
    unfold locAddr at h
    constructor <;> apply BitVec.eq_of_toNat_eq <;> omega
  · rintro ⟨rfl, rfl⟩
    rfl

theorem locAddr_div (p i : Byte) : locAddr p i / 256 = p.toNat := by
  have := i.isLt
  unfold locAddr
  omega

theorem locAddr_mod (p i : Byte) : locAddr p i % 256 = i.toNat := by
  have := i.isLt
  unfold locAddr
  omega

/-- A page past the registry has length 0. -/
theorem len_eq_zero {c : Config} {p : Byte} (h : c.pageCount ≤ p.toNat) : c.len p = 0 := by
  unfold Config.len Config.initOf
  unfold Config.pageCount firstDriverPage at h
  split
  · omega
  · omega
  · next j hj =>
    have : c.drivers[j]? = none := List.getElem?_eq_none (by omega)
    simp [this]

/-- A location's page is registered. -/
theorem page_lt_of_lt_len {c : Config} {p i : Byte} (h : i.toNat < c.len p) : p.toNat < c.pageCount := by
  by_contra hn
  rw [len_eq_zero (by omega)] at h
  omega

@[simp] theorem len_ctrlPage (c : Config) : c.len ctrlPage = 7 := rfl

@[simp] theorem len_zero (c : Config) : c.len 0#8 = 7 := rfl

@[simp] theorem rw_ctrlPage (c : Config) : c.rw ctrlPage = true := rfl

theorem two_le_pageCount (c : Config) : 2 ≤ c.pageCount := Nat.le_add_left _ _

/-- Under a valid configuration a page has at most 255 bytes (00_scope.md R5). -/
theorem len_le {c : Config} (hv : c.Valid) (p : Byte) : c.len p ≤ 255 := by
  obtain ⟨_, hd, hs, _⟩ := hv
  unfold Config.len Config.initOf
  split
  · decide
  · exact hd
  · next j _ =>
    rcases hj : c.drivers[j]? with _ | d
    · simp
    · simpa using hs d (List.mem_of_getElem? hj)

/-- The reset contents of a location, byte `i` of `init(p)`. -/
theorem initByte_locAddr (c : Config) (p i : Byte) : c.initByte (locAddr p i) = ((c.initOf p.toNat)[i.toNat]?).getD 0 := by
  unfold Config.initByte
  rw [locAddr_div, locAddr_mod]

/-- A byte read after a byte written. -/
theorem byte_setByte (s : State) (p i v q j : Byte) :
    (s.setByte p i v).byte q j = if q = p ∧ j = i then v else s.byte q j := by
  unfold State.byte State.setByte
  simp [Memory.get_set, locAddr_inj]

@[simp] theorem setByte_cfg (s : State) (p i v : Byte) : (s.setByte p i v).cfg = s.cfg := rfl
@[simp] theorem setByte_sess (s : State) (p i v : Byte) : (s.setByte p i v).sess = s.sess := rfl
@[simp] theorem setByte_ctx (s : State) (p i v : Byte) : (s.setByte p i v).ctx = s.ctx := rfl
@[simp] theorem setByte_nvm (s : State) (p i v : Byte) : (s.setByte p i v).nvm = s.nvm := rfl
@[simp] theorem setByte_devAddr (s : State) (p i v : Byte) : (s.setByte p i v).devAddr = s.devAddr := rfl
@[simp] theorem setByte_w (s : State) (p i v : Byte) : (s.setByte p i v).w = s.w := rfl
@[simp] theorem setByte_out (s : State) (p i v : Byte) : (s.setByte p i v).out = s.out := rfl
@[simp] theorem setByte_queue (s : State) (p i v : Byte) : (s.setByte p i v).queue = s.queue := rfl
@[simp] theorem setByte_draws (s : State) (p i v : Byte) : (s.setByte p i v).draws = s.draws := rfl
@[simp] theorem setByte_turns (s : State) (p i v : Byte) : (s.setByte p i v).turns = s.turns := rfl

/-- Writing a byte keeps the canonical form of the memory. -/
theorem setByte_wf {s : State} {p i v : Byte} (h : Memory.wf s.cfg.initByte s.mem = true) :
    Memory.wf (s.setByte p i v).cfg.initByte (s.setByte p i v).mem = true := Memory.wf_set h

/-- A cell after a byte write is the written location's or an old one. -/
theorem mem_setByte {s : State} {p i v : Byte} {c : Host.Cell} (h : c ∈ (s.setByte p i v).mem) :
    c = (locAddr p i, v) ∨ c ∈ s.mem := Memory.mem_set h

/-- `atLocation` goes on exactly where the location exists. -/
theorem atLocation_eq {s : State} {p i : Byte} {k : Result} (h : i.toNat < s.cfg.len p) : atLocation s p i k = k := by
  have := page_lt_of_lt_len h
  unfold atLocation
  simp [Nat.not_le.mpr this, Nat.not_le.mpr h]

/-- What `atLocation` can answer. -/
theorem atLocation_cases (s : State) (p i : Byte) (k : Result) :
    (i.toNat < s.cfg.len p ∧ atLocation s p i k = k) ∨
    (s.cfg.pageCount ≤ p.toNat ∧ atLocation s p i k = .refused .noSuchPage) ∨
    (p.toNat < s.cfg.pageCount ∧ s.cfg.len p ≤ i.toNat ∧ atLocation s p i k = .fault .noSuchLocation) := by
  by_cases hp : s.cfg.pageCount ≤ p.toNat
  · exact .inr (.inl ⟨hp, by simp [atLocation, hp]⟩)
  · by_cases hi : s.cfg.len p ≤ i.toNat
    · exact .inr (.inr ⟨by omega, hi, by simp [atLocation, hp, hi]⟩)
    · exact .inl ⟨by omega, by simp [atLocation, hp, hi]⟩

/-- A next state of `atLocation` is one of its continuation. -/
theorem atLocation_next {s t : State} {p i : Byte} {k : Result} (h : atLocation s p i k = .next t) :
    i.toNat < s.cfg.len p ∧ k = .next t := by
  rcases atLocation_cases s p i k with ⟨hl, e⟩ | ⟨_, e⟩ | ⟨_, _, e⟩
  · exact ⟨hl, e.symm.trans h⟩
  · rw [e] at h
    cases h
  · rw [e] at h
    cases h

/-- A next state of `andThen` comes from a next state of its first part. -/
theorem andThen_next {r : Result} {f : State → Result} {t : State} (h : andThen r f = .next t) :
    ∃ u, r = .next u ∧ f u = .next t := by
  cases r with
  | next u => exact ⟨u, rfl, h⟩
  | fault x => cases h
  | refused x => cases h

/-- The bytes after `Merge(code)`. -/
theorem merge_byte (s : State) (code : Nibble) (p i : Byte) :
    (s.merge code).byte p i = if p = ctrlPage ∧ i = offStatus then mergeStatus code s.status else s.byte p i := by
  unfold State.merge
  split
  · exact byte_setByte ..
  · simp only [State.withCtx_byte]
    exact byte_setByte ..

/-- The command context after `Merge(code)`. -/
theorem merge_ctx (s : State) (code : Nibble) :
    (s.merge code).ctx = if code = codeInProgress then s.ctx else { s.ctx with lastCommand := s.ctx.command, command := 0 } := by
  unfold State.merge
  split <;> rfl

/-- `Merge` writes the status byte and the context, nothing else. -/
theorem merge_eq (s : State) (code : Nibble) :
    s.merge code = { s with mem := (s.merge code).mem, ctx := (s.merge code).ctx } := by
  unfold State.merge
  split <;> rfl

theorem merge_mem (s : State) (code : Nibble) :
    (s.merge code).mem = (s.setByte ctrlPage offStatus (mergeStatus code s.status)).mem := by
  unfold State.merge
  split <;> rfl

@[simp] theorem merge_cfg (s : State) (code : Nibble) : (s.merge code).cfg = s.cfg := by rw [merge_eq]
@[simp] theorem merge_sess (s : State) (code : Nibble) : (s.merge code).sess = s.sess := by rw [merge_eq]
@[simp] theorem merge_nvm (s : State) (code : Nibble) : (s.merge code).nvm = s.nvm := by rw [merge_eq]
@[simp] theorem merge_devAddr (s : State) (code : Nibble) : (s.merge code).devAddr = s.devAddr := by rw [merge_eq]
@[simp] theorem merge_w (s : State) (code : Nibble) : (s.merge code).w = s.w := by rw [merge_eq]
@[simp] theorem merge_out (s : State) (code : Nibble) : (s.merge code).out = s.out := by rw [merge_eq]
@[simp] theorem merge_queue (s : State) (code : Nibble) : (s.merge code).queue = s.queue := by rw [merge_eq]
@[simp] theorem merge_draws (s : State) (code : Nibble) : (s.merge code).draws = s.draws := by rw [merge_eq]
@[simp] theorem merge_turns (s : State) (code : Nibble) : (s.merge code).turns = s.turns := by rw [merge_eq]

/-- A step begins with no output and is otherwise the same state. -/
theorem quiet_eq (s : State) : s.quiet = { s with out := {} } := rfl

@[simp] theorem quiet_cfg (s : State) : s.quiet.cfg = s.cfg := rfl
@[simp] theorem quiet_sess (s : State) : s.quiet.sess = s.sess := rfl
@[simp] theorem quiet_ctx (s : State) : s.quiet.ctx = s.ctx := rfl
@[simp] theorem quiet_mem (s : State) : s.quiet.mem = s.mem := rfl
@[simp] theorem quiet_nvm (s : State) : s.quiet.nvm = s.nvm := rfl
@[simp] theorem quiet_devAddr (s : State) : s.quiet.devAddr = s.devAddr := rfl
@[simp] theorem quiet_w (s : State) : s.quiet.w = s.w := rfl
@[simp] theorem quiet_out (s : State) : s.quiet.out = {} := rfl
@[simp] theorem quiet_queue (s : State) : s.quiet.queue = s.queue := rfl
@[simp] theorem quiet_draws (s : State) : s.quiet.draws = s.draws := rfl
@[simp] theorem quiet_turns (s : State) : s.quiet.turns = s.turns := rfl
@[simp] theorem respond_cfg (s : State) (r : Response) : (s.respond r).cfg = s.cfg := rfl
@[simp] theorem respond_sess (s : State) (r : Response) : (s.respond r).sess = s.sess := rfl
@[simp] theorem respond_ctx (s : State) (r : Response) : (s.respond r).ctx = s.ctx := rfl
@[simp] theorem respond_mem (s : State) (r : Response) : (s.respond r).mem = s.mem := rfl
@[simp] theorem respond_nvm (s : State) (r : Response) : (s.respond r).nvm = s.nvm := rfl
@[simp] theorem respond_devAddr (s : State) (r : Response) : (s.respond r).devAddr = s.devAddr := rfl
@[simp] theorem respond_w (s : State) (r : Response) : (s.respond r).w = s.w := rfl
@[simp] theorem respond_out (s : State) (r : Response) : (s.respond r).out = { s.out with response := r } := rfl
@[simp] theorem respond_queue (s : State) (r : Response) : (s.respond r).queue = s.queue := rfl
@[simp] theorem respond_draws (s : State) (r : Response) : (s.respond r).draws = s.draws := rfl
@[simp] theorem respond_turns (s : State) (r : Response) : (s.respond r).turns = s.turns := rfl
@[simp] theorem setProto_cfg (s : State) (x : ProtoState) : (s.setProto x).cfg = s.cfg := rfl
@[simp] theorem setProto_sess (s : State) (x : ProtoState) : (s.setProto x).sess = { s.sess with state := x } := rfl
@[simp] theorem setProto_ctx (s : State) (x : ProtoState) : (s.setProto x).ctx = s.ctx := rfl
@[simp] theorem setProto_mem (s : State) (x : ProtoState) : (s.setProto x).mem = s.mem := rfl
@[simp] theorem setProto_nvm (s : State) (x : ProtoState) : (s.setProto x).nvm = s.nvm := rfl
@[simp] theorem setProto_devAddr (s : State) (x : ProtoState) : (s.setProto x).devAddr = s.devAddr := rfl
@[simp] theorem setProto_w (s : State) (x : ProtoState) : (s.setProto x).w = s.w := rfl
@[simp] theorem setProto_out (s : State) (x : ProtoState) : (s.setProto x).out = s.out := rfl
@[simp] theorem setProto_queue (s : State) (x : ProtoState) : (s.setProto x).queue = s.queue := rfl
@[simp] theorem setProto_draws (s : State) (x : ProtoState) : (s.setProto x).draws = s.draws := rfl
@[simp] theorem setProto_turns (s : State) (x : ProtoState) : (s.setProto x).turns = s.turns := rfl
@[simp] theorem finish_cfg (s : State) (code : Nibble) : (s.finish code).cfg = s.cfg := rfl
@[simp] theorem finish_sess (s : State) (code : Nibble) : (s.finish code).sess = s.sess := rfl
@[simp] theorem finish_ctx (s : State) (code : Nibble) : (s.finish code).ctx = s.ctx := rfl
@[simp] theorem finish_mem (s : State) (code : Nibble) : (s.finish code).mem = s.mem := rfl
@[simp] theorem finish_nvm (s : State) (code : Nibble) : (s.finish code).nvm = s.nvm := rfl
@[simp] theorem finish_devAddr (s : State) (code : Nibble) : (s.finish code).devAddr = s.devAddr := rfl
@[simp] theorem finish_w (s : State) (code : Nibble) : (s.finish code).w = { s.w with result := code, phase := .report } := rfl
@[simp] theorem finish_out (s : State) (code : Nibble) : (s.finish code).out = s.out := rfl
@[simp] theorem finish_queue (s : State) (code : Nibble) : (s.finish code).queue = s.queue := rfl
@[simp] theorem finish_draws (s : State) (code : Nibble) : (s.finish code).draws = s.draws := rfl
@[simp] theorem finish_turns (s : State) (code : Nibble) : (s.finish code).turns = s.turns := rfl
@[simp] theorem advance_cfg (s : State) : s.advance.cfg = s.cfg := rfl
@[simp] theorem advance_ctx (s : State) : s.advance.ctx = s.ctx := rfl
@[simp] theorem advance_mem (s : State) : s.advance.mem = s.mem := rfl
@[simp] theorem advance_nvm (s : State) : s.advance.nvm = s.nvm := rfl
@[simp] theorem advance_devAddr (s : State) : s.advance.devAddr = s.devAddr := rfl
@[simp] theorem advance_w (s : State) : s.advance.w = s.w := rfl
@[simp] theorem advance_out (s : State) : s.advance.out = s.out := rfl
@[simp] theorem advance_queue (s : State) : s.advance.queue = s.queue := rfl
@[simp] theorem advance_draws (s : State) : s.advance.draws = s.draws := rfl
@[simp] theorem advance_turns (s : State) : s.advance.turns = s.turns := rfl

@[simp] theorem quiet_byte (s : State) (p i : Byte) : s.quiet.byte p i = s.byte p i := rfl

@[simp] theorem respond_byte (s : State) (r : Response) (p i : Byte) : (s.respond r).byte p i = s.byte p i := rfl

@[simp] theorem setProto_byte (s : State) (x : ProtoState) (p i : Byte) : (s.setProto x).byte p i = s.byte p i := rfl

@[simp] theorem finish_byte (s : State) (code : Nibble) (p i : Byte) : (s.finish code).byte p i = s.byte p i := rfl

@[simp] theorem advance_byte (s : State) (p i : Byte) : s.advance.byte p i = s.byte p i := rfl

/-- `Advance()` is the increment modulo the page's length (20_memory.md R65). -/
theorem advance_offset {s : State} (h : s.sess.offset.toNat < s.cfg.len s.sess.activePage)
    (hl : s.cfg.len s.sess.activePage ≤ 255) :
    s.advance.sess.offset.toNat = (s.sess.offset.toNat + 1) % s.cfg.len s.sess.activePage := by
  simp only [State.advance, State.withSess_sess]
  split
  · next he => simp [he]
  · next he =>
    rw [Nat.mod_eq_of_lt (by omega), BitVec.toNat_add]
    simp
    omega

/-- `Advance()` writes the offset only. -/
theorem advance_eq (s : State) : s.advance = { s with sess := { s.sess with offset := s.advance.sess.offset } } := rfl

/-- What `PostFromActivePage()` answers where its page and field exist. -/
theorem postFromActivePage_eq {s : State} (hp : s.sess.activePage.toNat < s.cfg.pageCount)
    (hl : ∀ l, s.cfg.cmdFieldLoc s.sess.activePage = some l → l.off.toNat < s.cfg.len l.page) :
    postFromActivePage s = .next
      (match s.cfg.cmdFieldLoc s.sess.activePage with
       | none => s.endQuietly
       | some l => (s.takeCommand l).postCode (s.byte l.page l.off)) := by
  unfold postFromActivePage
  rw [if_neg (by omega)]
  rcases hc : s.cfg.cmdFieldLoc s.sess.activePage with _ | l
  · rfl
  · exact atLocation_eq (hl l hc)

/-- What a next state of `PostFromActivePage()` is. -/
theorem postFromActivePage_next {s t : State} (h : postFromActivePage s = .next t) :
    (s.cfg.cmdFieldLoc s.sess.activePage = none ∧ t = s.endQuietly) ∨
    ∃ l, s.cfg.cmdFieldLoc s.sess.activePage = some l ∧ l.off.toNat < s.cfg.len l.page ∧
      t = (s.takeCommand l).postCode (s.byte l.page l.off) := by
  unfold postFromActivePage at h
  split at h
  · cases h
  · split at h
    · next hn => exact .inl ⟨hn, by cases h; rfl⟩
    · next l hs =>
      obtain ⟨hl, e⟩ := atLocation_next h
      exact .inr ⟨l, hs, hl, by cases e; rfl⟩

/-- A valid configuration's command fields are locations (00_scope.md R7, 41_command_posting_status.md R160). -/
theorem cmdFieldLoc_ok {c : Config} (hv : c.Valid) {p : Byte} {l : Loc} (h : c.cmdFieldLoc p = some l) :
    l.off.toNat < c.len l.page := by
  obtain ⟨_, _, _, _, _, hd, hs, _⟩ := hv
  unfold Config.cmdFieldLoc at h
  split at h
  · cases h
    show offCommand.toNat < c.len ctrlPage
    rw [len_ctrlPage]
    decide
  · unfold Config.txCmdLoc at h
    split at h
    · cases h
    · exact hd l h
    · next j _ =>
      rcases hj : c.drivers[j]? with _ | dp
      · simp [hj] at h
      · exact hs dp (List.mem_of_getElem? hj) l (by simpa [hj] using h)

/-- The three ways the code of a command field is dealt with. -/
theorem postCode_cases (s : State) (c : Byte) :
    (c = 0 ∧ s.postCode c = s.noPost) ∨ (c ≠ 0 ∧ s.ctx.command = 0 ∧ s.postCode c = s.acceptPost c) ∨
    (c ≠ 0 ∧ s.ctx.command ≠ 0 ∧ s.postCode c = s.rejectPost) := by
  unfold State.postCode State.outcomeOf
  by_cases hc : c = 0
  · exact .inl ⟨hc, by rw [if_pos hc]⟩
  · by_cases hx : s.ctx.command = 0
    · exact .inr (.inl ⟨hc, hx, by rw [if_neg hc, if_neg (not_not.mpr hx)]⟩)
    · exact .inr (.inr ⟨hc, hx, by rw [if_neg hc, if_pos hx]⟩)

/-- Where a reset leaves everything (10_state.md R45). -/
theorem restart_eq (s : State) :
    s.restart = { State.powerOn s.cfg s.nvm with queue := s.queue, draws := s.draws, turns := s.turns } := rfl

/-- What the fetch of a request answers. -/
theorem fetchRequest_cases {r : Request} {t u : State} {x : Option Instr} (h : fetchRequest r t = .ok (x, u)) :
    u = t ∧ ∃ i, x = some i ∧ decode t.cfg.marker t.sess.state r = .ok i := by
  unfold fetchRequest at h
  split at h
  · next i hi =>
    cases h
    exact ⟨rfl, i, rfl, hi⟩
  · cases h

/-- The state in which a fetched instruction runs: the queue's head is gone, or one more turn is drawn, and nothing else. -/
theorem fetch_cases {s t : State} {x : Option Instr} (h : s.fetch = .ok (x, t)) :
    (s.queue = [] ∧ t = s.withTurns (s.turns + 1)) ∨
    ∃ r rest i, s.queue = r :: rest ∧ x = some i ∧ decode s.cfg.marker s.sess.state r = .ok i ∧ t = s.withQueue rest := by
  unfold State.fetch at h
  split at h
  · next hq =>
    refine .inl ⟨hq, ?_⟩
    unfold fetchTurn at h
    split at h
    · cases h
      rfl
    · exact (fetchRequest_cases h).1
    · cases h
      rfl
  · next r rest hq =>
    obtain ⟨rfl, i, rfl, hd⟩ := fetchRequest_cases h
    exact .inr ⟨r, rest, i, hq, rfl, hd, rfl⟩

/-- A step to a next state executes one instruction on a state that differs in `queue` and `turns` only, or nobody moves. -/
theorem step_next {s t : State} (h : step s = .next t) :
    ∃ q n, (∃ i, exec i ((s.withQueue q).withTurns n) = .next t) ∨ t = ((s.withQueue q).withTurns n).quiet := by
  have key : ∀ x u, s.fetch = .ok (x, u) → ∃ q n, u = (s.withQueue q).withTurns n := by
    intro x u hf
    rcases fetch_cases hf with ⟨_, rfl⟩ | ⟨_, rest, _, _, _, _, rfl⟩
    · exact ⟨s.queue, s.turns + 1, rfl⟩
    · exact ⟨rest, s.turns, rfl⟩
  unfold step at h
  split at h
  · next i u hf =>
    obtain ⟨q, n, rfl⟩ := key _ _ hf
    exact ⟨q, n, .inl ⟨i, h⟩⟩
  · next u hf =>
    obtain ⟨q, n, rfl⟩ := key _ _ hf
    cases h
    exact ⟨q, n, .inr rfl⟩
  · cases h

end Sys2Proof.Machine
end

