-- ==== Sys2Proof/Laws/Commands.lean ====
section
/-! SUPPORT. What each command and posting operation does to a state that begins a step (`quiet`), with its tests written on the state itself. -/

namespace Sys2Proof.Machine

variable (s : State)

theorem setPage_quiet : s.quiet.setPage =
    if s.cfg.pageArgOk s.param0 then (s.quiet.withSess { s.sess with page := s.param0 }).finish codeSuccess
    else s.quiet.finish codeErrorArgument := rfl

theorem setDevAddr_quiet : s.quiet.setDevAddr =
    if addrArgOk s.param0 then ((s.quiet.storeAddr s.param0).reloadAddr).finish codeSuccess
    else s.quiet.finish codeErrorArgument := rfl

theorem storeAddr_quiet (v : Byte) : s.quiet.storeAddr v =
    if s.nvm = v then s.quiet else (s.withNvm v).withOut { nvmWrite := some v } := rfl

theorem reservedCommand_quiet : s.quiet.reservedCommand = s.quiet.finish codeErrorCommand := rfl

/-- The cases of one step of the table scan (42_worker_commands.md R188). -/
theorem extStep_quiet : s.quiet.extStep =
    if s.w.hung then s.quiet
    else
      match s.cfg.cmdTable[s.w.k]? with
      | some e => if e.selects s.w.cmd then s.quiet.invoke e else s.quiet.nextEntry
      | none => if s.w.hit then s.quiet.withW { s.w with phase := .report } else s.quiet.finish codeErrorCommand := rfl

/-- A handler that returns: its return is the result so far, and the scan goes on (42_worker_commands.md R188). -/
theorem afterHandler_returns {e : CmdEntry} (h : Config.handlerReturns s.draws e.handler s.w.cmd = true) :
    s.afterHandler e = { s.w with result := Config.handlerReturn s.draws e.handler s.w.cmd, hit := true, k := s.w.k + 1 } := if_pos h

/-- A handler that never returns keeps the worker (60_exceptions.md R236). -/
theorem afterHandler_hangs {e : CmdEntry} (h : Config.handlerReturns s.draws e.handler s.w.cmd = false) :
    s.afterHandler e = { s.w with hung := true } := by
  unfold State.afterHandler
  rw [h]
  rfl

/-- Inside a handler that never returns the worker does nothing (60_exceptions.md R236). -/
theorem extStep_hung (h : s.w.hung = true) : s.extStep = s := if_pos h

theorem runCommand_quiet : s.quiet.runCommand =
    if s.w.cmd = cmdCodeSetPage then s.quiet.setPage
    else if s.w.cmd = cmdCodeSetDevAddr then s.quiet.setDevAddr
    else if s.w.cmd = cmdCodeReset then s.quiet.commandReset
    else if s.w.cmd.toNat < firstExtCode then s.quiet.reservedCommand
    else s.quiet.extStep := rfl

theorem commandReset_quiet : s.quiet.commandReset = { s.restart with out := { restart := true } } := rfl

theorem takeCommand_byte (l : Loc) (p i : Byte) :
    (s.takeCommand l).byte p i = if p = l.page ∧ i = l.off then 0 else s.byte p i := by
  unfold State.takeCommand
  rw [State.withSess_byte, byte_setByte]

theorem rejectPost_byte (p i : Byte) :
    s.rejectPost.byte p i = if p = ctrlPage ∧ i = offStatus then rejectStatus s.cfg.rejectFlags s.status else s.byte p i := by
  unfold State.rejectPost
  rw [setProto_byte, byte_setByte]

theorem acceptPost_byte (c p i : Byte) :
    (s.acceptPost c).byte p i = if p = ctrlPage ∧ i = offStatus then mergeStatus codeInProgress s.status else s.byte p i := by
  unfold State.acceptPost
  simp only [State.withOut_byte, setProto_byte, State.withCtx_byte, merge_byte]

/-- What an accepted post leaves, but for the memory. -/
theorem acceptPost_eq (c : Byte) : s.acceptPost c =
    { s with
      sess := { s.sess with state := .ioFinish }
      ctx := { s.ctx with command := c, lastAddress := s.sess.activePage }
      mem := (s.acceptPost c).mem
      out := { s.out with wake := true } } := rfl

/-- What a rejected post leaves, but for the memory. -/
theorem rejectPost_eq : s.rejectPost =
    { s with sess := { s.sess with state := .idle }, mem := s.rejectPost.mem } := rfl

/-- What a step answers when it executes a command: it always answers a next state. -/
theorem execWExec_eq (h : s.w.phase = .exec) : exec .wExec s = .next s.quiet.runCommand := if_pos h

end Sys2Proof.Machine
end

