-- ==== Sys2Proof/Laws/Invariant.lean ====
section
/-! SUPPORT. How the shared operations keep the invariant (10_state.md R46), one lemma for each. -/

namespace Sys2Proof.Machine

variable {s t : State}

/-- The invariant speaks of the configuration, the session, `ctx.lastAddress`, the memory and the worker only. -/
theorem inv_congr (h : s.Inv) (h1 : t.cfg = s.cfg) (h2 : t.sess = s.sess) (h3 : t.ctx.lastAddress = s.ctx.lastAddress)
    (h4 : t.mem = s.mem) (h5 : t.w = s.w) : t.Inv := by
  unfold State.Inv State.CursorOk State.HasLoc State.MemOk State.WriteStateOk State.HungOk at *
  rw [h1, h2, h3, h4, h5]
  exact h

/-- The worker may change to anything with `w.k` in the table, if it hangs only in an extension command. -/
theorem inv_withW (h : s.Inv) {x : Worker} (hk : x.k ≤ s.cfg.cmdTable.length)
    (hh : x.hung = true → x.phase = .exec ∧ firstExtCode ≤ x.cmd.toNat) : (s.withW x).Inv := by
  obtain ⟨h1, h2, h3, h4, h5, h6, _, _⟩ := h
  exact ⟨h1, h2, h3, h4, h5, h6, hk, hh⟩

/-- A worker that is not executing an extension command is not inside a handler. -/
theorem not_hung (h : s.Inv) (hc : s.w.phase ≠ .exec ∨ s.w.cmd.toNat < firstExtCode) : s.w.hung = false := by
  by_contra hn
  obtain ⟨h1, h2⟩ := h.2.2.2.2.2.2.2 (by simpa using hn)
  rcases hc with hc | hc
  · exact hc h1
  · omega

theorem inv_quiet (h : s.Inv) : s.quiet.Inv := inv_congr h rfl rfl rfl rfl rfl

theorem inv_respond (h : s.Inv) (r : Response) : (s.respond r).Inv := inv_congr h rfl rfl rfl rfl rfl

theorem inv_finish (h : s.Inv) (hh : s.w.hung = false) (code : Nibble) : (s.finish code).Inv :=
  inv_withW h h.2.2.2.2.2.2.1 fun he => by
    have he : s.w.hung = true := he
    rw [hh] at he
    cases he

/-- A byte written at a location keeps the invariant. -/
theorem inv_setByte (h : s.Inv) {p i v : Byte} (hi : i.toNat < s.cfg.len p) : (s.setByte p i v).Inv := by
  obtain ⟨h1, h2, h3, h4, ⟨h5, h6⟩, h7⟩ := h
  refine ⟨h1, h2, h3, h4, ⟨setByte_wf h5, ?_⟩, h7⟩
  intro c hc
  rcases mem_setByte hc with rfl | hc
  · show locAddr p i % 256 < (s.cfg.initOf (locAddr p i / 256)).length
    rw [locAddr_mod, locAddr_div]
    exact hi
  · exact h6 c hc

/-- `Merge(code)` keeps the invariant. -/
theorem inv_merge (h : s.Inv) (code : Nibble) : (s.merge code).Inv := by
  refine inv_congr (inv_setByte (p := ctrlPage) (i := offStatus) (v := mergeStatus code s.status) h (by rw [len_ctrlPage]; decide))
    (merge_cfg ..) (merge_sess ..) ?_ (merge_mem ..) (merge_w ..)
  rw [merge_ctx]
  split <;> rfl

/-- A change of `sess.state` to one that makes no claim about the active page keeps the invariant. -/
theorem inv_setProto (h : s.Inv) {x : ProtoState}
    (hx : x = .idle ∨ x = .addressOrRead ∨ x = .ioFinish ∨ x = .error) : (s.setProto x).Inv := by
  obtain ⟨h1, h2, h3, h4, h5, _, h8⟩ := h
  refine ⟨h1, h2, h3, h4, h5, ?_, h8⟩
  rcases hx with rfl | rfl | rfl | rfl <;> exact ⟨by simp, by simp⟩

/-- `Advance()` keeps the invariant. -/
theorem inv_advance (h : s.Inv) : s.advance.Inv := by
  obtain ⟨h1, h2, ⟨h3, h3'⟩, h4, h5, h7, h8⟩ := h
  refine ⟨h1, h2, ⟨h3, ?_⟩, h4, h5, h7, h8⟩
  show s.advance.sess.offset.toNat < s.cfg.len s.sess.activePage
  rw [advance_offset h3' (len_le h1 _)]
  exact Nat.mod_lt _ (by omega)

/-- A reset keeps the invariant. -/
theorem inv_restart (h : s.Inv) : s.restart.Inv := by
  have h2 := two_le_pageCount s.cfg
  refine ⟨h.1, h.1.2.2.2.2.2.2.2.1, ⟨?_, ?_⟩, ?_, ⟨rfl, ?_⟩, ⟨?_, ?_⟩, Nat.zero_le _, ?_⟩
  · show 0 < s.cfg.pageCount; omega
  · show 0 < s.cfg.len 0; simp
  · show 0 < s.cfg.pageCount; omega
  · intro x hx; cases hx
  · rintro (h | h) <;> cases h
  · intro h; cases h
  · intro h; cases h

end Sys2Proof.Machine
end

