-- ==== Sys2Proof/Laws/PerInstr.lean ====
section
/-! SUPPORT. The shape of an encoding, for each instruction: how many bytes its request has (30_encoding.md R91, R93, R95, R96, R99; log entry 7). -/

namespace Sys2Proof.Laws.EncodingShape

/-- How many bytes a request of a format has, its first byte being `b`. -/
def bytesOf (f : Format) (b : Byte) : Nat :=
  match f with
  | .eventWord => 2
  | .addressByte | .dataByte | .commandByte => 1
  | .stepLabel => 1 + labelOperands (loNibble b)

/-- The request of an instruction has as many bytes as its format, and its label, need. -/
def Statement (i : Instr) : Prop :=
  (encode i).bytes.length = bytesOf (encode i).fmt ((encode i).bytes.headD 0)

theorem evStop : Statement .evStop := by rfl

theorem evAddrW : Statement .evAddrW := by rfl

theorem evAddrR : Statement .evAddrR := by rfl

theorem evDataW (a : Byte) : Statement (.evDataW a) := by rfl

theorem evDataR : Statement .evDataR := by rfl

theorem evNone : Statement .evNone := by rfl

theorem addrCtrl (a b : Nibble) : Statement (.addrCtrl a b) := by rfl

theorem addrPage (a : Byte) : Statement (.addrPage a) := by rfl

theorem dataFirst (a : Byte) : Statement (.dataFirst a) := by rfl

theorem dataNext (a : Byte) : Statement (.dataNext a) := by rfl

theorem dataRo (a : Byte) : Statement (.dataRo a) := by rfl

theorem dataErr (a : Byte) : Statement (.dataErr a) := by rfl

theorem cmdNone : Statement .cmdNone := by rfl

theorem cmdSetPage : Statement .cmdSetPage := by rfl

theorem cmdSetDevAddr : Statement .cmdSetDevAddr := by rfl

theorem cmdReset : Statement .cmdReset := by rfl

theorem cmdReserved (a : BitVec 2) : Statement (.cmdReserved a) := by rfl

theorem cmdExt (a : Byte) : Statement (.cmdExt a) := by rfl

theorem postNoField : Statement .postNoField := by rfl

theorem postNone : Statement .postNone := by rfl

theorem postAccept : Statement .postAccept := by rfl

theorem postReject : Statement .postReject := by rfl

theorem wPickup : Statement .wPickup := by rfl

theorem wMark : Statement .wMark := by rfl

theorem wExec : Statement .wExec := by rfl

theorem wReport : Statement .wReport := by rfl

theorem drvWrite (a b c : Byte) : Statement (.drvWrite a b c) := by rfl

theorem drvRead (a b : Byte) : Statement (.drvRead a b) := by rfl

theorem drvTxCmd (a : Byte) : Statement (.drvTxCmd a) := by rfl

theorem drvStatusUpdate (a : Nibble) : Statement (.drvStatusUpdate a) := by rfl

theorem reset : Statement .reset := by rfl

end Sys2Proof.Laws.EncodingShape
end

