-- ==== Sys2Proof/Tests/Slice0.lean ====
section
/-! SUPPORT. Tests against the vectors of 95_test_vectors.md (their numbers in the comments), and a witness for each statement that has
hypotheses. -/

namespace Sys2Proof.Tests

open Sys2Proof.Machine

/-! ### The reference configuration (95_test_vectors.md section 1) -/

/-- REFCFG; handler 0 is hA, handler 1 is hB. -/
def ref : Config where
  drivers :=
    [{ init := List.replicate 8 0, rw := true, txLoc := some ⟨0, 1⟩ }, { init := List.replicate 4 0, rw := true, txLoc := some ⟨3, 0⟩ }]
  devInfoExtra := []
  devInfoTx := none
  marker := [0xF]
  defaultAddr := 0x21
  ffUnprogrammed := false
  cmdTable := [⟨0, 0xFF, 0x10⟩, ⟨1, 0xF0, 0x10⟩]
  resetPage := 0
  rejectFlags := 0b10
  manufacturerId := 0x1234
  productId := 0xABCD
  version := 0x07

/-- The reset state of REFCFG. -/
def r0 : State := State.powerOn ref 0x00

/-- `r0` with the session `(st, page, ap, off, 0)`. -/
def at_ (st : ProtoState) (page ap off : Byte) : State :=
  { r0 with sess := { state := st, page := page, activePage := ap, offset := off, command := 0 } }

/-- `s` with `ctx.command` at `c`. -/
def busy (c : Byte) (s : State) : State := { s with ctx := { s.ctx with command := c } }

/-- `r0` with the worker in phase `ph`, the code `c` picked up and in flight, status 0x10. -/
def work (ph : Phase) (c : Byte) : State :=
  busy c { (r0.setByte 0 0 0x10) with w := { phase := ph, cmd := c, result := 0, k := 0, hit := false, hung := false } }

/-- The worker at entry `k` with the code `c`. -/
def scan (c : Byte) (k : Nat) (hit : Bool) : State :=
  { work .exec c with w := { phase := .exec, cmd := c, result := 0, k := k, hit := hit, hung := false } }

/-- The worker inside a handler that never returns, command 0x10 in flight, the bus in state `st` on the control page. -/
def hungWorker (st : ProtoState) : State :=
  { work .exec 0x10 with
    sess := { state := st, page := 0, activePage := 0, offset := 3, command := 0 }
    w := { phase := .exec, cmd := 0x10, result := 0, k := 0, hit := false, hung := true } }

/-- The state of the vectors A7 and A8 but for `ctx.command`: a control-page transaction with `buf0[2] = 01`. -/
def armed : State := (at_ .readWrite 0 0 3).setByte 0 2 1

/-- Does `r` answer a next state of which `p` holds? -/
def gives (r : Result) (p : State → Bool) : Bool :=
  match r with
  | .next t => p t
  | _ => false

/-! ### Well-formedness -/

theorem test_wf_refuses_marker_without_bit3 : Instr.wf (.addrCtrl 7 0) = false := by decide
theorem test_wf_refuses_core_code_as_extension : Instr.wf (.cmdExt 7) = false := by decide
theorem test_wf_accepts_boundaries : Instr.wf (.addrCtrl 8 0xF) = true ∧ Instr.wf (.cmdExt 8) = true := by decide
theorem test_valid_accepts_refcfg : ref.Valid := by decide
theorem test_valid_refuses_256_pages : ¬ Config.Valid { ref with drivers := List.replicate 254 ⟨[], true, none⟩ } := by
  intro h
  have := h.1
  simp only [Config.pageCount, List.length_replicate, firstDriverPage] at this
  omega
theorem test_valid_refuses_long_devinfo : ¬ Config.Valid { ref with devInfoExtra := List.replicate 251 0 } := by
  intro h
  have := h.2.1
  simp only [Config.devInfo, List.length_append, List.length_replicate, List.length_cons, List.length_nil] at this
  omega
theorem test_valid_refuses_long_page : ¬ Config.Valid { ref with drivers := [⟨List.replicate 256 0, true, none⟩] } := by
  intro h
  have := h.2.2.1 _ (List.mem_singleton_self _)
  simp only [List.length_replicate] at this
  omega
theorem test_valid_refuses_no_marker : ¬ Config.Valid { ref with marker := [] } := by decide
theorem test_valid_refuses_low_marker : ¬ Config.Valid { ref with marker := [0x7] } := by decide
theorem test_valid_refuses_field_outside : ¬ Config.Valid { ref with devInfoTx := some ⟨1, 5⟩ } := by decide
theorem test_valid_refuses_driver_field_outside : ¬ Config.Valid { ref with drivers := [⟨[0], true, some ⟨2, 1⟩⟩] } := by decide
theorem test_valid_refuses_reset_page : ¬ Config.Valid { ref with resetPage := 4 } := by decide
theorem test_valid_refuses_reject_without_buserr : ¬ Config.Valid { ref with rejectFlags := 0b01 } := by decide

/-! ### Decoding: words written out bit by bit from 30_encoding.md -/

theorem test_decode_event_words :
    decodeTableWord 16 0b00000000000 = some .evStop ∧ decodeTableWord 16 0b01000000000 = some .evAddrW ∧
    decodeTableWord 16 0b01100000000 = some .evAddrR ∧ decodeTableWord 16 0b10011110010 = some (.evDataW 0xF2) ∧
    decodeTableWord 16 0b10100000000 = some .evDataR ∧ decodeTableWord 16 0b11000000000 = some .evNone := by decide
theorem test_decode_event_ignores_bits :
    decodeTableWord 16 0b00111111111 = some .evStop ∧ decodeTableWord 16 0b11110101010 = some .evNone := by decide
theorem test_decode_address_bytes :
    decode [0xF] .addressOrRead ⟨.addressByte, [0b11110010]⟩ = .ok (.addrCtrl 0xF 2) ∧
    decode [0xF] .addressOrRead ⟨.addressByte, [0b01110010]⟩ = .ok (.addrPage 0x72) ∧
    decode [0x8, 0xF] .addressOrRead ⟨.addressByte, [0b10000011]⟩ = .ok (.addrCtrl 8 3) := by decide
theorem test_decode_data_bytes :
    decode [0xF] .readWriteFirstByte ⟨.dataByte, [0b10100101]⟩ = .ok (.dataFirst 0xA5) ∧
    decode [0xF] .readWrite ⟨.dataByte, [0b10100101]⟩ = .ok (.dataNext 0xA5) ∧
    decode [0xF] .readOnly ⟨.dataByte, [0b10100101]⟩ = .ok (.dataRo 0xA5) ∧
    decode [0xF] .error ⟨.dataByte, [0b10100101]⟩ = .ok (.dataErr 0xA5) ∧
    decode [0xF] .idle ⟨.dataByte, [0b10100101]⟩ = .error .noDataRow := by decide
theorem test_decode_command_bytes :
    decodeTableWord 8 0b00000000 = some .cmdNone ∧ decodeTableWord 8 0b00000001 = some .cmdSetPage ∧
    decodeTableWord 8 0b00000010 = some .cmdSetDevAddr ∧ decodeTableWord 8 0b00000011 = some .cmdReset ∧
    decodeTableWord 8 0b00000100 = some (.cmdReserved 0) ∧ decodeTableWord 8 0b00001000 = some (.cmdExt 8) ∧
    decodeTableWord 8 0b10000000 = some (.cmdExt 0x80) := by decide
theorem test_decode_labels :
    decodeTableWord 4 0b0000 = some .wPickup ∧ decodeTableWord 4 0b0001 = some .wMark ∧ decodeTableWord 4 0b0010 = some .wExec ∧
    decodeTableWord 4 0b0011 = some .wReport ∧ decodeTableWord 4 0b0100 = some .postNoField ∧ decodeTableWord 4 0b0101 = some .postNone ∧
    decodeTableWord 4 0b0110 = some .postAccept ∧ decodeTableWord 4 0b0111 = some .postReject := by decide
theorem test_decode_driver_labels :
    decodeTableWord 4 0b1000 = some (.drvWrite 0 0 0) ∧ decodeTableWord 4 0b1001 = some (.drvRead 0 0) ∧
    decodeTableWord 4 0b1010 = some (.drvTxCmd 0) ∧ decodeTableWord 4 0b1011 = some (.drvStatusUpdate 0) ∧
    decodeTableWord 4 0b1100 = some .reset ∧ decodeTableWord 4 0b1101 = none := by decide
theorem test_decode_refuses_by_name :
    decode [0xF] .idle ⟨.eventWord, [0]⟩ = .error .missingBytes ∧ decode [0xF] .idle ⟨.eventWord, [0, 8]⟩ = .error .strayBits ∧
    decode [0xF] .idle ⟨.commandByte, [1, 1]⟩ = .error .trailingBytes ∧ decode [0xF] .idle ⟨.stepLabel, [8, 2, 3]⟩ = .error .missingBytes ∧
    decode [0xF] .idle ⟨.stepLabel, [0b1111]⟩ = .error .unusedLabel := by decide

/-! ### Memory -/

theorem test_memory_write_back_removes : (r0.setByte 2 3 9).setByte 2 3 0 = r0 := by decide
theorem test_memory_stays_sorted :
    ((r0.setByte 3 1 0xAA).setByte 0 2 1).mem = [(2, 1), (769, 0xAA)] ∧ Memory.wf ref.initByte ((r0.setByte 3 1 0xAA).setByte 0 2 1).mem = true := by
  decide
theorem test_reset_memory_wf : Memory.wf Config.board.initByte State.reset.mem = true := rfl

/-! ### Single steps -/

/-- A1, A2, A3. -/
theorem test_addr_idle : gives (exec .evAddrW r0) (fun t => t.sess.state = .addressOrRead && t.out.response = .ack) = true := by decide
theorem test_addr_iofinish :
    gives (exec .evAddrR (at_ .ioFinish 0 0 0)) (fun t => t.sess.state = .ioFinish && t.out.response = .nack) = true := by decide

/-- A7: the restart posts and the address phase is NACKed. -/
theorem test_restart_posts :
    gives (exec .evAddrR armed) (fun t =>
      t.sess.state = .ioFinish && t.out.response = .nack && t.out.wake && t.byte 0 2 = 0 && t.byte 0 0 = 0x10 && t.ctx.command = 1) = true := by
  decide

/-- A8: the restart's post is rejected and the address phase is ACKed. -/
theorem test_restart_rejects :
    gives (exec .evAddrW (busy 0x10 armed)) (fun t =>
      t.sess.state = .addressOrRead && t.out.response = .ack && t.byte 0 2 = 0 && t.byte 0 0 = 0x02 && t.ctx.command = 0x10) = true := by
  decide

/-- A10, A12. -/
theorem test_stop :
    gives (exec .evStop (at_ .ioFinish 0 0 0)) (fun t => t.sess.state = .ioFinish) = true ∧
    gives (exec .evStop (at_ .readWrite 2 2 1)) (fun t => t.sess.state = .idle && t.sess.command = 0 && t.ctx.command = 0) = true := by decide

/-- B3, B17. -/
theorem test_addrctrl_out_of_range :
    gives (exec (.addrCtrl 0xF 7) (at_ .addressOrRead 2 0 4)) (fun t =>
      t.out.response = .nack && t.sess.state = .error && t.sess.activePage = 0 && t.sess.offset = 4) = true := by decide
theorem test_addrctrl_forces_control_page :
    gives (exec (.addrCtrl 0xF 1) (at_ .addressOrRead 1 1 4)) (fun t =>
      t.out.response = .ack && t.sess.state = .readWriteFirstByte && t.sess.activePage = 0 && t.sess.offset = 1) = true := by decide

/-- B11, B7. -/
theorem test_addrpage_read_only :
    gives (exec (.addrPage 4) (at_ .addressOrRead 1 0 4)) (fun t =>
      t.out.response = .ack && t.sess.state = .readOnly && t.sess.activePage = 1 && t.sess.offset = 4) = true := by decide
theorem test_addrpage_out_of_range :
    gives (exec (.addrPage 8) (at_ .addressOrRead 2 0 4)) (fun t => t.out.response = .nack && t.sess.state = .error) = true := by decide

/-- B9 with the markers 0x8 to 0xF: 0x80 becomes ADDR.CTRL. -/
theorem test_high_half_markers :
    gives (exec (.evDataW 0x80) { at_ .addressOrRead 2 0 4 with cfg := { ref with marker := [8, 9, 10, 11, 12, 13, 14, 15] } }) (fun t =>
      t.out.response = .ack && t.sess.activePage = 0 && t.sess.offset = 0) = true := by decide

/-- DB1, DB10: the first data byte, and the wrap. -/
theorem test_datafirst :
    gives (exec (.dataFirst 1) (at_ .readWriteFirstByte 0 0 2)) (fun t => t.byte 0 2 = 1 && t.sess.offset = 3 && t.sess.state = .readWrite) = true := by
  decide
theorem test_datafirst_wraps :
    gives (exec (.dataFirst 0x77) (at_ .readWriteFirstByte 3 3 3)) (fun t => t.byte 3 3 = 0x77 && t.sess.offset = 0) = true := by decide

/-- DB2, DB4. -/
theorem test_datanext_wraps :
    gives (exec (.dataNext 0xAA) (at_ .readWrite 2 2 7)) (fun t => t.byte 2 7 = 0xAA && t.sess.offset = 0 && t.out.response = .ack) = true := by
  decide
theorem test_datanext_replaces_status :
    gives (exec (.evDataW 0) (busy 2 ((at_ .readWrite 0 0 0).setByte 0 0 0x12))) (fun t => t.byte 0 0 = 0 && t.ctx.command = 2) = true := by decide

/-- DB5, DB6. -/
theorem test_dataro_nacked :
    gives (exec (.dataRo 0x99) (at_ .readOnly 1 1 0)) (fun t => t.out.response = .nack && t.byte 1 0 = 0x34 && t.sess.offset = 0) = true := by decide
theorem test_dataerr_nacked :
    gives (exec (.dataErr 0x55) (at_ .error 2 0 4)) (fun t => t.out.response = .nack && t.sess.state = .error && t.mem = []) = true := by decide

/-- DB7, DB9. -/
theorem test_read_wraps :
    gives (exec .evDataR (at_ .addressOrRead 1 1 4)) (fun t => t.out.response = .data 0x07 && t.sess.offset = 0) = true := by decide
theorem test_read_status_no_side_effect :
    gives (exec .evDataR ((at_ .addressOrRead 0 0 0).setByte 0 0 0x10)) (fun t => t.out.response = .data 0x10 && t.byte 0 0 = 0x10) = true := by
  decide

/-- DB11, DB12. -/
theorem test_unsequenced_write_refused : exec (.evDataW 1) r0 = .refused .unsequencedDataEvent := rfl
theorem test_unsequenced_read_refused : exec .evDataR (at_ .error 0 0 0) = .refused .unsequencedDataEvent := rfl

/-- 30_encoding.md R100. -/
theorem test_none_refused : exec .evNone r0 = .refused .notAnEvent := rfl

/-- P-a, P-b. -/
theorem test_cmdnone :
    gives (exec .cmdNone ((at_ .readWrite 0 0 3).setByte 0 0 0x12)) (fun t => t.sess.state = .idle && t.byte 0 0 = 0x12) = true := by decide
theorem test_postnone :
    gives (exec .postNone (busy 5 (at_ .readWrite 0 0 3))) (fun t => t.sess.state = .idle && t.sess.command = 0 && t.ctx.command = 5) = true := by
  decide
theorem test_postaccept :
    gives (exec .postAccept armed) (fun t =>
      t.byte 0 2 = 0 && t.byte 0 0 = 0x10 && t.ctx.command = 1 && t.ctx.lastAddress = 0 && t.sess.state = .ioFinish && t.out.wake) = true := by
  decide

/-- P-e. -/
theorem test_postaccept_driver_page :
    gives (exec .postAccept ((at_ .readWrite 3 3 2).setByte 3 0 0x10)) (fun t =>
      t.byte 3 0 = 0 && t.ctx.command = 0x10 && t.ctx.lastAddress = 3 && t.sess.command = 0x10) = true := by decide

/-- P-c, P-g. -/
theorem test_postreject :
    gives (exec .postReject (busy 0x10 armed)) (fun t =>
      t.byte 0 2 = 0 && t.byte 0 0 = 0x02 && t.ctx.command = 0x10 && t.sess.state = .idle && !t.out.wake) = true := by decide
theorem test_postreject_sets_busy :
    gives (exec .postReject { busy 0x10 (armed.setByte 0 0 0x10) with cfg := { ref with rejectFlags := 0b11 } }) (fun t => t.byte 0 0 = 0x13) = true := by
  decide

/-- P-f. -/
theorem test_postnofield :
    gives (exec .postNoField { busy 9 (at_ .readWrite 2 2 1) with cfg := { ref with drivers := [⟨List.replicate 8 0, true, none⟩] } }) (fun t =>
      t.sess.state = .idle && t.mem = [] && t.ctx.command = 9) = true := by decide

/-- P1 step 3, and a poll with nothing to pick up. -/
theorem test_pickup :
    gives (exec .wPickup (busy 1 (at_ .ioFinish 0 0 4))) (fun t => t.sess.state = .idle && t.w.cmd = 1 && t.w.phase = .mark) = true := by decide
theorem test_pickup_nothing : gives (exec .wPickup r0) (fun t => t = r0) = true := by decide

/-- I2: W.MARK restores 0x10. -/
theorem test_mark :
    gives (exec .wMark ((work .mark 1).setByte 0 0 0x03)) (fun t => t.byte 0 0 = 0x13 && t.w.phase = .exec && t.ctx.command = 1) = true := by decide

/-- Section 3.5, SETPAGE with `N = 4`. -/
theorem test_setpage_last_page :
    gives (exec .cmdSetPage ((work .exec 1).setByte 0 3 3)) (fun t => t.sess.page = 3 && t.w.result = 0 && t.w.phase = .report) = true := by decide
theorem test_setpage_out_of_range :
    gives (exec .cmdSetPage ((work .exec 1).setByte 0 3 4)) (fun t => t.sess.page = 0 && t.w.result = 5) = true := by decide

/-- Table S5 and section 3.5. -/
theorem test_setdevaddr_changed :
    gives (exec .cmdSetDevAddr { (work .exec 2).setByte 0 3 0x45 with nvm := 0x43 }) (fun t =>
      t.nvm = 0x45 && t.devAddr = 0x45 && t.out.nvmWrite = some 0x45 && t.w.result = 0) = true := by decide
theorem test_setdevaddr_even :
    gives (exec .cmdSetDevAddr { (work .exec 2).setByte 0 3 0x42 with nvm := 0x43 }) (fun t =>
      t.nvm = 0x43 && t.devAddr = 0x21 && t.out.nvmWrite = none && t.w.result = 5) = true := by decide

/-- P4 steps 7 and 8. -/
theorem test_cmdreset :
    gives (exec .cmdReset { (work .exec 3).setByte 0 3 0x43 with nvm := 0x43 }) (fun t =>
      t.out.restart && t.mem = [] && t.devAddr = 0x43 && t.ctx.command = 0 && t.w.phase = .poll) = true := by decide
theorem test_reserved :
    gives (exec (.cmdReserved 1) (work .exec 5)) (fun t => t.w.result = 4 && t.w.phase = .report) = true := by decide

/-- Section 3.5: 0x11 is passed over by hA; 0x10 invokes hA, whose return is free. -/
theorem test_ext_no_match :
    gives (exec (.cmdExt 0x11) (work .exec 0x11)) (fun t => t.w.k = 1 && !t.w.hit && t.out.handler = none && t.w.phase = .exec) = true := by decide
theorem test_ext_match :
    gives (exec (.cmdExt 0x10) (work .exec 0x10)) (fun t => t.out.handler = some 0 && t.draws = 1 && t.ctx.command = 0x10) = true := by rfl

/-- 60_exceptions.md R236: inside a handler that never returns the worker does nothing, a post is rejected, and a reset recovers. -/
theorem test_hung_worker : gives (exec .wExec (hungWorker .idle)) (fun t => t = hungWorker .idle) = true := by decide
theorem test_hung_post_rejected :
    gives (exec .evStop ((hungWorker .readWrite).setByte 0 2 1)) (fun t => t.sess.state = .idle && t.byte 0 0 = 0x12 && t.ctx.command = 0x10) = true := by
  decide
theorem test_hung_reset : gives (exec .reset (hungWorker .idle)) (fun t => !t.w.hung && t.w.phase = .poll && t.ctx.command = 0) = true := by decide

/-- S7: the closing step of code 9. I3: code 0 at the worker. -/
theorem test_exec_unknown :
    gives (exec .wExec (scan 9 2 false)) (fun t => t.w.result = 4 && t.w.phase = .report) = true ∧
    gives (exec .wExec (work .exec 0)) (fun t => t.w.result = 4 && t.w.phase = .report) = true := by decide

/-- 42_worker_commands.md R190's example, and a return of InProgress. -/
theorem test_report :
    gives (exec .wReport { work .report 1 with w := { phase := .report, cmd := 1, result := 5, k := 0, hit := false, hung := false } }) (fun t =>
      t.byte 0 0 = 0x50 && t.ctx.lastCommand = 1 && t.ctx.command = 0 && t.w.phase = .poll) = true := by decide
theorem test_report_in_progress :
    gives (exec .wReport { work .report 0x10 with w := { phase := .report, cmd := 0x10, result := 1, k := 2, hit := true, hung := false } }) (fun t =>
      t.byte 0 0 = 0x10 && t.ctx.lastCommand = 0 && t.ctx.command = 0x10) = true := by decide

/-- M3, M6. -/
theorem test_statusupdate_keeps_flags :
    gives (exec (.drvStatusUpdate 5) (busy 2 (r0.setByte 0 0 0x1F))) (fun t => t.byte 0 0 = 0x5F && t.ctx.lastCommand = 2) = true := by decide
theorem test_statusupdate_unassigned_code :
    gives (exec (.drvStatusUpdate 9) (busy 8 (r0.setByte 0 0 0x10))) (fun t => t.byte 0 0 = 0x90 && t.ctx.command = 0) = true := by decide

/-- 42_worker_commands.md R192. -/
theorem test_drvwrite : gives (exec (.drvWrite 2 7 0x5A) r0) (fun t => t.byte 2 7 = 0x5A) = true := by decide
theorem test_drvwrite_control_page : exec (.drvWrite 0 2 1) r0 = .refused .notADriverMove := rfl
theorem test_drvread : gives (exec (.drvRead 1 2) r0) (fun t => t.out.driverRead = some 0xCD) = true := by decide
theorem test_drvtxcmd : gives (exec (.drvTxCmd 7) r0) (fun t => t.byte 0 1 = 7) = true := by decide

/-- 70_reset_and_hazards.md R251; LoadAddr's table of section 3.5. -/
theorem test_reset : gives (exec .reset { busy 3 armed with nvm := 0xFF }) (fun t => t.mem = [] && t.devAddr = 0xFF && t.sess.state = .idle) = true := by
  decide
theorem test_loadaddr_ff_unprogrammed :
    Config.loadAddr { ref with ffUnprogrammed := true } 0xFF = 0x21 ∧ ref.loadAddr 0xFE = 0x21 ∧ ref.loadAddr 0x43 = 0x43 := by decide

/-- From `State.reset`, whatever the board's free values are, the fetched instruction runs; the turns with nothing placed. -/
theorem test_fetch_event : gives (step (State.reset.withFetchWord 16 0x200)) (fun t => t.out.response = .ack) = true := by rfl
theorem test_fetch_command : gives (step (State.reset.withFetchWord 8 3)) (fun t => t.out.restart) = true := by rfl
theorem test_turn_nobody : fetchTurn .nobody r0 = .ok (none, r0) := rfl
theorem test_turn_deliver : fetchTurn (.deliver (eventRequest 0x200)) r0 = .ok (some .evAddrW, r0) := rfl

/-! ### Witnesses: states and operands that meet the hypotheses of each statement, each clause, at the boundaries -/

/-- A configuration whose page 2 has no command field. -/
def refNoField : Config := { ref with drivers := [⟨List.replicate 8 0, true, none⟩] }

/-- A configuration whose page 2 has the status byte for its command field. -/
def refStatusField : Config := { ref with drivers := [⟨List.replicate 8 0, true, some ⟨0, 0⟩⟩] }

/-- A transaction to page 2 of `refStatusField`, the status byte at 0x10. -/
def armedStatus : State := { at_ .readWrite 2 2 1 with cfg := refStatusField }.setByte 0 0 0x10

/-- `armed` with a controller read's address phase next. -/
def armedNext : State := { armed with queue := [eventRequest 0x300] }

/-- `r0` with a controller write's address phase next. -/
def r0Next : State := { r0 with queue := [eventRequest 0x200] }

/-- Nine bytes, one more than page 2 holds. -/
def nine : List Byte := [1, 2, 3, 4, 5, 6, 7, 8, 9]

theorem ref_noFieldIn_1 : ref.NoFieldIn 1 := by
  intro p l h
  unfold Config.cmdFieldLoc Config.txCmdLoc at h
  split at h
  · cases h; decide
  · split at h
    · cases h
    · cases h
    · next j _ =>
      match j, h with
      | 0, h => cases h; decide
      | 1, h => cases h; decide
      | _ + 2, h => cases h

theorem ref_noFieldAtStatus : ref.NoFieldAtStatus := by
  intro p h
  unfold Config.cmdFieldLoc Config.txCmdLoc at h
  split at h
  · cases h
  · split at h
    · cases h
    · cases h
    · next j _ =>
      match j, h with
      | 0, h => cases h
      | 1, h => cases h
      | _ + 2, h => cases h

theorem witness_DecodeInvertsEncode :
    (Instr.addrCtrl 0xF 6).wf = true ∧ (Instr.addrCtrl 0xF 6).fits [0xF] .addressOrRead = true ∧
    (Instr.dataNext 0xFF).wf = true ∧ (Instr.dataNext 0xFF).fits [0xF] .readWrite = true ∧
    (Instr.cmdExt 8).wf = true ∧ (Instr.cmdExt 8).fits [0xF] .idle = true := by decide

theorem witness_DecodedInstructionIsWellFormed :
    (∀ m ∈ ([0x8, 0xF] : List Nibble), m.getLsbD 3 = true) ∧
    decode [0x8, 0xF] .addressOrRead ⟨.addressByte, [0x8F]⟩ = .ok (.addrCtrl 8 0xF) := by decide

theorem witness_StepRunsDecodedRequest :
    r0Next.queue = eventRequest 0x200 :: [] ∧ decode r0Next.cfg.marker r0Next.sess.state (eventRequest 0x200) = .ok .evAddrW := by decide

theorem witness_EmptyQueueTakesAFreeTurn :
    r0.queue = [] ∧ r0.w.phase = .poll ∧ (work .mark 1).queue = [] ∧ (work .mark 1).w.phase = .mark ∧
    (work .exec 1).w.phase = .exec ∧ (work .report 1).w.phase = .report := by decide

theorem witness_ResetSetsEveryElement :
    ((0 : Byte).toNat < 7 ∧ (6 : Byte).toNat < 7) ∧ ∃ d, ref.drivers[1]? = some d ∧ (3 : Byte).toNat = 1 + 2 ∧ d.init[(3 : Byte).toNat]? = some 0 := by
  exact ⟨by decide, _, rfl, rfl, rfl⟩

theorem witness_LoadAddrRule :
    (0x00 : Byte).toNat % 2 = 0 ∧ (0xFE : Byte).toNat % 2 = 0 ∧ (0xFF : Byte).toNat = 255 ∧
    (0x01 : Byte).toNat % 2 = 1 ∧ (0xFD : Byte).toNat % 2 = 1 ∧ (0xFD : Byte).toNat ≠ 255 := by decide

theorem witness_ResetMeetsInvariant : ref.Valid ∧ refStatusField.Valid := by decide

theorem witness_AddressPhaseWithoutTransaction : r0.sess.state = .idle ∧ (at_ .ioFinish 0 0 4).sess.state = .ioFinish := by decide

theorem witness_RestartIsStopThenAddressPhase :
    armed.Inv ∧ armed.sess.state ≠ .idle ∧ armed.sess.state ≠ .ioFinish ∧
    (at_ .error 2 0 4).Inv ∧ (at_ .error 2 0 4).sess.state ≠ .idle ∧ (at_ .error 2 0 4).sess.state ≠ .ioFinish :=
  ⟨by decide, by decide, by decide, by decide, by decide, by decide⟩

theorem witness_StopWithoutStoredByte :
    (at_ .addressOrRead 0 0 0).sess.state = .addressOrRead ∧ (at_ .readOnly 1 1 0).sess.state = .readOnly ∧
    (at_ .readWriteFirstByte 0 0 0).sess.state = .readWriteFirstByte ∧ (at_ .error 0 0 0).sess.state = .error ∧
    r0.sess.state = .idle ∧ (at_ .ioFinish 0 0 0).sess.state = .ioFinish := by decide

theorem witness_StopAfterStoredBytePosts :
    armed.Inv ∧ armed.sess.state = .readWrite ∧
    { at_ .readWrite 2 2 1 with cfg := refNoField }.Inv ∧ refNoField.cmdFieldLoc 2 = none ∧
    (at_ .readWrite 0 0 3).Inv ∧ (at_ .readWrite 0 0 3).byte 0 2 = 0 ∧ (busy 0x10 armed).Inv ∧ (busy 0x10 armed).byte 0 2 ≠ 0 :=
  ⟨by decide, by decide, by decide, by decide, by decide, by decide, by decide, by decide⟩

theorem witness_CommandFieldLocation : (2 : Byte).toNat = 0 + 2 ∧ (0xFF : Byte).toNat = 253 + 2 := by decide

theorem witness_PostWithoutField :
    { at_ .readWrite 2 2 1 with cfg := refNoField }.sess.state = .readWrite ∧ (2 : Byte).toNat < refNoField.pageCount ∧
    refNoField.cmdFieldLoc 2 = none := by decide

theorem witness_PostOfZero :
    (at_ .readWrite 0 0 3).Inv ∧ (at_ .readWrite 0 0 3).sess.state = .readWrite ∧ ref.cmdFieldLoc 0 = some ⟨0, 2⟩ ∧
    (at_ .readWrite 0 0 3).byte 0 2 = 0 := by decide

theorem witness_AcceptedPost :
    armed.Inv ∧ armed.sess.state = .readWrite ∧ armed.cfg.cmdFieldLoc armed.sess.activePage = some ⟨0, 2⟩ ∧ armed.byte 0 2 ≠ 0 ∧
    armed.ctx.command = 0 ∧
    armedStatus.Inv ∧ armedStatus.sess.state = .readWrite ∧ armedStatus.cfg.cmdFieldLoc armedStatus.sess.activePage = some ⟨0, 0⟩ ∧
    armedStatus.byte 0 0 ≠ 0 ∧ armedStatus.ctx.command = 0 :=
  ⟨by decide, by decide, by decide, by decide, by decide, by decide, by decide, by decide, by decide, by decide⟩

theorem witness_RejectedPost :
    (busy 0x10 armed).Inv ∧ (busy 0x10 armed).sess.state = .readWrite ∧
    (busy 0x10 armed).cfg.cmdFieldLoc (busy 0x10 armed).sess.activePage = some ⟨0, 2⟩ ∧ (busy 0x10 armed).byte 0 2 ≠ 0 ∧
    (busy 0x10 armed).ctx.command ≠ 0 ∧
    (busy 1 armedStatus).Inv ∧ (busy 1 armedStatus).byte 0 0 ≠ 0 ∧ (busy 1 armedStatus).ctx.command ≠ 0 :=
  ⟨by decide, by decide, by decide, by decide, by decide, by decide, by decide, by decide⟩

theorem witness_ReadDeliversByteAtCursor :
    (at_ .addressOrRead 1 1 4).sess.state.servesRead = true ∧ (at_ .addressOrRead 1 1 4).CursorOk ∧
    (at_ .readOnly 1 1 0).sess.state.servesRead = true ∧ (at_ .readOnly 1 1 0).CursorOk ∧
    (at_ .readWrite 2 2 7).sess.state.servesRead = true ∧ (at_ .readWrite 2 2 7).CursorOk := by decide

theorem witness_UnsequencedDataEventIsRefused :
    r0.sess.state = .idle ∧ (at_ .ioFinish 0 0 0).sess.state = .ioFinish ∧ (at_ .error 0 0 0).sess.state = .error := by decide

theorem witness_MarkedAddressByte :
    (at_ .addressOrRead 2 0 4).sess.state = .addressOrRead ∧ (0xF : Nibble) ∈ (at_ .addressOrRead 2 0 4).cfg.marker ∧
    (6 : Nibble).toNat < 7 ∧ ¬ (7 : Nibble).toNat < 7 := by decide

theorem witness_UnmarkedAddressByte :
    (at_ .addressOrRead 2 0 4).sess.state = .addressOrRead ∧
    (∀ m ∈ (at_ .addressOrRead 2 0 4).cfg.marker, m.toNat ≠ (7 : Byte).toNat / 16) ∧
    (∀ m ∈ (at_ .addressOrRead 2 0 4).cfg.marker, m.toNat ≠ (8 : Byte).toNat / 16) ∧
    (at_ .addressOrRead 2 0 4).sess.page.toNat < ref.pageCount ∧ (7 : Byte).toNat < ref.len 2 ∧ ¬ (8 : Byte).toNat < ref.len 2 := by decide

theorem witness_FirstDataByte :
    (at_ .readWriteFirstByte 3 3 3).sess.state = .readWriteFirstByte ∧ (at_ .readWriteFirstByte 3 3 3).CursorOk ∧
    (at_ .readWriteFirstByte 0 0 0).CursorOk := by decide

theorem witness_FurtherDataByte :
    (at_ .readWrite 2 2 7).sess.state = .readWrite ∧ (at_ .readWrite 2 2 7).CursorOk ∧ (at_ .readWrite 0 0 0).CursorOk := by decide

theorem witness_ReadOnlyPageNacksByte : (at_ .readOnly 1 1 0).sess.state = .readOnly := by decide

theorem witness_ErrorStateNacksByte : (at_ .error 2 0 4).sess.state = .error := by decide

theorem witness_StreamingReadWraps : (at_ .addressOrRead 1 1 4).Inv ∧ (at_ .addressOrRead 1 1 4).sess.state.servesRead = true := by decide

theorem witness_StreamingWriteWraps :
    (at_ .readWriteFirstByte 2 2 7).Inv ∧ (at_ .readWriteFirstByte 2 2 7).sess.state = .readWriteFirstByte ∧ (at_ .readWrite 2 2 7).Inv ∧
    (at_ .readWrite 2 2 7).sess.state = .readWrite ∧
    (nine[8]? = some 9 ∧ ∀ k, 8 < k → k < nine.length → (7 + k) % ref.len 2 ≠ (7 + 8) % ref.len 2) ∧
    (nine[1]? = some 2 ∧ ∀ k, 1 < k → k < nine.length → (7 + k) % ref.len 2 ≠ (7 + 1) % ref.len 2) ∧
    (∀ k, k < [(1 : Byte)].length → (0 : Byte).toNat ≠ (7 + k) % ref.len 2) := by
  refine ⟨by decide, by decide, by decide, by decide, ⟨rfl, ?_⟩, ⟨rfl, ?_⟩, ?_⟩
  · intro k h1 h2
    simp only [nine, List.length_cons, List.length_nil] at h2
    omega
  · intro k h1 h2
    have h3 : ref.len 2 = 8 := rfl
    simp only [nine, List.length_cons, List.length_nil] at h2
    rw [h3]
    omega
  · intro k h
    have h3 : ref.len 2 = 8 := rfl
    have h4 : k = 0 := by simpa using h
    subst h4
    rw [h3]
    decide

theorem witness_NackCauses :
    (∃ t, armed.Inv ∧ exec .evAddrR armed = .next t ∧ t.out.response = .nack) ∧
    (∃ t, (at_ .addressOrRead 2 0 4).Inv ∧ exec (.evDataW 8) (at_ .addressOrRead 2 0 4) = .next t ∧ t.out.response = .nack) ∧
    (∃ t, (at_ .readOnly 1 1 0).Inv ∧ exec (.evDataW 0) (at_ .readOnly 1 1 0) = .next t ∧ t.out.response = .nack) ∧
    (∃ t, (at_ .error 2 0 4).Inv ∧ exec (.evDataW 0) (at_ .error 2 0 4) = .next t ∧ t.out.response = .nack) ∧
    (∃ t, r0.Inv ∧ exec .evAddrW r0 = .next t ∧ t.out.response = .ack) :=
  ⟨⟨_, by decide, rfl, rfl⟩, ⟨_, by decide, rfl, rfl⟩, ⟨_, by decide, rfl, rfl⟩, ⟨_, by decide, rfl, rfl⟩, ⟨_, by decide, rfl, rfl⟩⟩

theorem witness_PickupFreesTheBus :
    (at_ .ioFinish 0 0 4).w.phase = .poll ∧ (at_ .ioFinish 0 0 4).sess.state = .ioFinish ∧ r0.w.phase = .poll ∧
    r0.sess.state ≠ .ioFinish := by decide

theorem witness_MarkSetsInProgress : (work .mark 1).w.phase = .mark := by decide

theorem witness_ExecDispatchesOnCode :
    (work .exec 0).w.phase = .exec ∧ (work .exec 0).w.cmd.toNat = 0 ∧ (work .exec 1).w.cmd.toNat = 1 ∧ (work .exec 2).w.cmd.toNat = 2 ∧
    (work .exec 3).w.cmd.toNat = 3 ∧ 4 ≤ (work .exec 4).w.cmd.toNat ∧ (work .exec 7).w.cmd.toNat < 8 ∧ 8 ≤ (work .exec 8).w.cmd.toNat ∧
    8 ≤ (work .exec 0xFF).w.cmd.toNat := by decide

theorem witness_SetPageCommand :
    (work .exec 1).w.phase = .exec ∧ (work .exec 1).w.cmd = 1 ∧
    (0 < (((work .exec 1).setByte 0 3 3).byte 0 3).toNat ∧ (((work .exec 1).setByte 0 3 3).byte 0 3).toNat < ref.pageCount) ∧
    ¬ (((work .exec 1).setByte 0 3 4).byte 0 3).toNat < ref.pageCount ∧ ¬ 0 < ((work .exec 1).byte 0 3).toNat := by decide

theorem witness_SetDevAddrCommand :
    (work .exec 2).w.phase = .exec ∧ (work .exec 2).w.cmd = 2 ∧ ((work .exec 2).byte 0 3).toNat % 2 = 0 ∧
    (((work .exec 2).setByte 0 3 0xFF).byte 0 3).toNat % 2 = 1 := by decide

theorem witness_ResetCommandRestarts : (work .exec 3).w.phase = .exec ∧ (work .exec 3).w.cmd = 3 := by decide

theorem witness_ReservedCodeIsErrorCommand :
    (work .exec 4).w.phase = .exec ∧ (work .exec 4).w.cmd.toNat = 4 + (0 : BitVec 2).toNat ∧
    (work .exec 7).w.cmd.toNat = 4 + (3 : BitVec 2).toNat := by decide

theorem witness_ExtensionStep :
    (scan 0x10 0 false).w.phase = .exec ∧ (scan 0x10 0 false).w.cmd = 0x10 ∧ 8 ≤ (0x10 : Byte).toNat ∧ 8 ≤ (0x08 : Byte).toNat ∧
    (ref.cmdTable[0]? = some ⟨0, 0xFF, 0x10⟩ ∧ (0xFF : Byte) &&& 0x10 = 0x10) ∧
    (ref.cmdTable[1]? = some ⟨1, 0xF0, 0x10⟩ ∧ (0xF0 : Byte) &&& 0x08 ≠ 0x10) ∧
    ref.cmdTable.length ≤ (scan 0x10 2 true).w.k ∧
    (scan 0x10 0 false).w.hung = false ∧ (hungWorker .idle).w.hung = true ∧ (hungWorker .idle).w.phase = .exec ∧ (hungWorker .idle).w.cmd = 0x10 := by decide

theorem witness_ExtensionScanReportsLastMatch :
    (scan 0x10 0 false).w.phase = .exec ∧ 8 ≤ (scan 0x10 0 false).w.cmd.toNat ∧ (scan 0x10 0 false).w.k = 0 ∧
    (scan 0x10 0 false).w.hit = false ∧ 8 ≤ (scan 8 0 false).w.cmd.toNat ∧ (scan 0x10 0 false).w.hung = false := by decide

theorem witness_HungHandlerStopsTheWorker :
    ∃ t, (hungWorker .idle).Inv ∧ (hungWorker .idle).w.hung = true ∧ exec .evAddrW (hungWorker .idle) = .next t ∧
      (hungWorker .idle).ctx.command ≠ 0 ∧ (hungWorker .idle).sess.state ≠ .ioFinish :=
  ⟨_, by decide, by decide, rfl, by decide, by decide⟩

theorem witness_ReportMergesResult : (work .report 1).w.phase = .report := by decide

theorem witness_DriverWriteStoresOneByte :
    (2 ≤ (3 : Byte).toNat ∧ (3 : Byte).toNat < ref.pageCount ∧ (3 : Byte).toNat < ref.len 3) ∧
    (1 : Byte).toNat < 2 ∧ ref.pageCount ≤ (4 : Byte).toNat ∧ ref.len 3 ≤ (4 : Byte).toNat := by decide

theorem witness_DriverReadHasNoEffect : (1 : Byte).toNat < ref.pageCount ∧ (4 : Byte).toNat < ref.len 1 := by decide

theorem witness_StepKeepsInvariant : ∃ t, armedNext.Inv ∧ step armedNext = .next t ∧ t.sess.state = .ioFinish :=
  ⟨_, by decide, rfl, rfl⟩

theorem witness_AtMostOneCommandInFlight :
    (∃ t, step (busy 1 r0Next) = .next t ∧ (busy 1 r0Next).ctx.command ≠ 0) ∧
    (busy 0x10 armed).Inv ∧ (busy 0x10 armed).sess.state = .readWrite ∧ ref.cmdFieldLoc 0 = some ⟨0, 2⟩ ∧ (busy 0x10 armed).byte 0 2 ≠ 0 ∧
    (busy 0x10 armed).ctx.command ≠ 0 :=
  ⟨⟨_, rfl, by decide⟩, by decide⟩

theorem witness_InvariantStatesNeverFault : r0.Inv ∧ exec (.drvRead 1 5) r0 = .fault .noSuchLocation := ⟨by decide, rfl⟩

theorem witness_ConfigurationIsImmutable : ∃ t, step r0Next = .next t := ⟨_, rfl⟩

theorem witness_OnlySetPageMovesTheStickyPage :
    ∃ t, exec .cmdSetPage ((work .exec 1).setByte 0 3 3) = .next t ∧ t.sess.page ≠ ((work .exec 1).setByte 0 3 3).sess.page :=
  ⟨_, rfl, by decide⟩

theorem witness_NonVolatileWritesAreMinimal :
    ∃ t, exec .wExec ((work .exec 2).setByte 0 3 0x43) = .next t ∧ t.nvm ≠ ((work .exec 2).setByte 0 3 0x43).nvm ∧
      t.devAddr ≠ ((work .exec 2).setByte 0 3 0x43).devAddr := ⟨_, rfl, by decide, by decide⟩

theorem witness_DeviceInfoPageIsNeverWritten :
    r0Next.Inv ∧ r0Next.cfg.NoFieldIn 1 ∧ r0Next.DevInfoIntact ∧ ∃ t, step r0Next = .next t :=
  ⟨by decide, ref_noFieldIn_1, fun _ => rfl, _, rfl⟩

theorem witness_StatusFlagsAreSticky :
    ∃ t, r0.cfg.NoFieldAtStatus ∧ exec (.drvStatusUpdate 0) (r0.setByte 0 0 0x13) = .next t ∧
      statusBusErr (r0.setByte 0 0 0x13).status = true ∧ statusBusy (r0.setByte 0 0 0x13).status = true :=
  ⟨_, ref_noFieldAtStatus, rfl, by decide, by decide⟩

theorem witness_InFlightStatusStaysInProgress :
    ∃ t, r0.cfg.NoFieldAtStatus ∧ exec .wMark (work .mark 1) = .next t ∧ (work .mark 1).ctx.command ≠ 0 ∧ t.ctx.command ≠ 0 ∧
      statusCode (work .mark 1).status = 1 := ⟨_, ref_noFieldAtStatus, rfl, by decide, by decide, by decide⟩

theorem witness_IoFinishGatesTheBus :
    ∃ t, (at_ .ioFinish 0 0 4).sess.state = .ioFinish ∧ exec .evAddrW (at_ .ioFinish 0 0 4) = .next t := ⟨_, rfl, rfl⟩

theorem witness_WedgedWorkerKeepsTheBusNacked :
    (at_ .ioFinish 0 0 4).sess.state = .ioFinish ∧
    ∀ j ∈ ([.evAddrW, .evStop, .evAddrR] : List Instr), j = .evAddrW ∨ j = .evAddrR ∨ j = .evStop := by decide

theorem witness_AddressOnlyTransactionPostsNothing : (r0.setByte 0 2 1).Inv ∧ (r0.setByte 0 2 1).sess.state = .idle := by decide

theorem witness_SetPageEndToEnd :
    (0xF : Nibble) ∈ r0.cfg.marker ∧ r0.sess.state = .idle ∧ r0.ctx.command = 0 ∧ r0.w.phase = .poll ∧
    (0 < (3 : Byte).toNat ∧ (3 : Byte).toNat < ref.pageCount) ∧ ¬ (4 : Byte).toNat < ref.pageCount := by decide

end Sys2Proof.Tests
end

namespace Sys2Proof.Machine

/-! ### The command context across a step (10_state.md R29) -/

/-- What one step may make of the command context: it stays, no command is in flight after the step, or none was before it. -/
def Ctx.MovesTo (x y : Ctx) : Prop := y = x ∨ y.command = 0 ∨ x.command = 0

theorem Ctx.MovesTo.of_eq {x y : Ctx} (h : y = x) : x.MovesTo y := .inl h

theorem Ctx.MovesTo.of_ended {x y : Ctx} (h : y.command = 0) : x.MovesTo y := .inr (.inl h)

theorem Ctx.MovesTo.of_idle {x y : Ctx} (h : x.command = 0) : x.MovesTo y := .inr (.inr h)

/-- A command in flight is not replaced by another. -/
theorem Ctx.MovesTo.command {x y : Ctx} (h : x.MovesTo y) (hx : x.command ≠ 0) : y.command = x.command ∨ y.command = 0 := by
  rcases h with rfl | h | h
  · exact .inl rfl
  · exact .inr h
  · exact absurd h hx

/-- A guarded meaning that answers a next state met its guard. -/
theorem guard_next {c : Prop} [Decidable c] {r : Result} {x : Refusal} {t : State}
    (h : (if c then r else .refused x) = .next t) : c ∧ r = .next t := by
  split at h
  · next hc => exact ⟨hc, h⟩
  · cases h

/-- `Merge` keeps the context or ends the command in flight (41_command_posting_status.md R165). -/
theorem merge_movesTo (s : State) (code : Nibble) : s.ctx.MovesTo (s.merge code).ctx := by
  rw [merge_ctx]
  split
  · exact .of_eq rfl
  · exact .of_ended rfl

theorem selectLocation_ctx {ap a : Byte} {s t : State} (h : selectLocation ap a s = .next t) : t.ctx = s.ctx := by
  unfold selectLocation at h
  split at h
  · cases h
  · split at h <;> cases h <;> rfl

theorem storeByte_ctx {b : Byte} {s t : State} (h : storeByte b s = .next t) : t.ctx = s.ctx := by
  obtain ⟨_, e⟩ := atLocation_next h
  cases e
  rfl

theorem execEvDataW_ctx {b : Byte} {s t : State} (h : execEvDataW b s = .next t) : t.ctx = s.ctx := by
  unfold execEvDataW at h
  split at h
  case h_1 => exact selectLocation_ctx h
  case h_2 | h_3 => exact storeByte_ctx h
  case h_4 | h_5 => cases h; rfl
  case h_6 | h_7 => cases h

/-- A code taken from a command field is posted only where no command is in flight (41_command_posting_status.md R161). -/
theorem postCode_movesTo (s : State) (c : Byte) : s.ctx.MovesTo (s.postCode c).ctx := by
  rcases postCode_cases s c with ⟨_, e⟩ | ⟨_, hidle, _⟩ | ⟨_, _, e⟩
  · exact .of_eq (by rw [e]; rfl)
  · exact .of_idle hidle
  · exact .of_eq (by rw [e]; rfl)

theorem postFromActivePage_movesTo {s t : State} (h : postFromActivePage s = .next t) : s.ctx.MovesTo t.ctx := by
  rcases postFromActivePage_next h with ⟨_, rfl⟩ | ⟨l, _, _, rfl⟩
  · exact .of_eq rfl
  · exact postCode_movesTo (s.takeCommand l) _

theorem postAs_movesTo {o : PostOutcome} {s t : State} (h : postAs o s = .next t) : s.ctx.MovesTo t.ctx :=
  postFromActivePage_movesTo (s := s.quiet) (guard_next h).2

theorem endTransaction_movesTo {s t : State} (h : endTransaction s = .next t) : s.ctx.MovesTo t.ctx := by
  unfold endTransaction at h
  split at h
  · exact postFromActivePage_movesTo h
  · cases h
    exact .of_eq rfl

theorem answerAddress_ctx {s t : State} (h : answerAddress s = .next t) : t.ctx = s.ctx := by
  unfold answerAddress at h
  split at h <;> cases h <;> rfl

theorem addressPhase_movesTo {s t : State} (h : addressPhase s = .next t) : s.ctx.MovesTo t.ctx := by
  unfold addressPhase at h
  split at h
  · obtain ⟨u, hu, ht⟩ := andThen_next h
    rw [answerAddress_ctx ht]
    exact endTransaction_movesTo (s := s.quiet) hu
  · exact .of_eq (answerAddress_ctx (s := s.quiet) h)

theorem execEvStop_movesTo {s t : State} (h : execEvStop s = .next t) : s.ctx.MovesTo t.ctx := by
  unfold execEvStop at h
  split at h
  · exact endTransaction_movesTo (s := s.quiet) h
  · cases h
    exact .of_eq rfl

theorem setPage_ctx (s : State) : s.setPage.ctx = s.ctx := by
  unfold State.setPage
  split <;> rfl

theorem setDevAddr_ctx (s : State) : s.setDevAddr.ctx = s.ctx := by
  unfold State.setDevAddr State.storeAddr
  split
  · split <;> rfl
  · rfl

theorem extStep_ctx (s : State) : s.extStep.ctx = s.ctx := by
  unfold State.extStep
  split
  · rfl
  · split <;> split <;> rfl

/-- Executing a command reports nothing yet: only a reset touches the context, and it empties it (42_worker_commands.md R183, R186). -/
theorem runCommand_movesTo (s : State) : s.ctx.MovesTo s.runCommand.ctx := by
  unfold State.runCommand
  split_ifs
  · exact .of_eq (setPage_ctx s)
  · exact .of_eq (setDevAddr_ctx s)
  · exact .of_ended rfl
  · exact .of_eq rfl
  · exact .of_eq (extStep_ctx s)

theorem execWPickup_ctx {s t : State} (h : execWPickup s = .next t) : t.ctx = s.ctx := by
  obtain ⟨_, h⟩ := guard_next h
  split at h <;> cases h <;> rfl

/-- What every instruction may make of the command context. -/
theorem exec_movesTo {i : Instr} {s t : State} (h : exec i s = .next t) : s.ctx.MovesTo t.ctx := by
  cases i with
  | evStop => exact execEvStop_movesTo h
  | evAddrW | evAddrR => exact addressPhase_movesTo h
  | evDataW b => exact .of_eq (execEvDataW_ctx h)
  | evDataR =>
    obtain ⟨_, e⟩ := atLocation_next (guard_next h).2
    cases e
    exact .of_eq rfl
  | evNone => cases h
  | addrCtrl _ _ | addrPage _ => exact .of_eq (selectLocation_ctx (guard_next h).2)
  | dataFirst _ | dataNext _ => exact .of_eq (storeByte_ctx (guard_next h).2)
  | dataRo _ | dataErr _ =>
    cases (guard_next h).2
    exact .of_eq rfl
  | cmdNone => exact postFromActivePage_movesTo (s := s.quiet) (guard_next h).2
  | postNoField | postNone | postAccept | postReject => exact postAs_movesTo h
  | cmdSetPage =>
    cases (guard_next h).2
    exact .of_eq (setPage_ctx s.quiet)
  | cmdSetDevAddr =>
    cases (guard_next h).2
    exact .of_eq (setDevAddr_ctx s.quiet)
  | cmdReset =>
    cases (guard_next h).2
    exact .of_ended rfl
  | cmdReserved _ =>
    cases (guard_next h).2
    exact .of_eq rfl
  | cmdExt _ =>
    cases (guard_next h).2
    exact .of_eq (extStep_ctx s.quiet)
  | wPickup => exact .of_eq (execWPickup_ctx h)
  | wMark =>
    cases (guard_next h).2
    exact merge_movesTo s.quiet codeInProgress
  | wExec =>
    cases (guard_next h).2
    exact runCommand_movesTo s.quiet
  | wReport =>
    cases (guard_next h).2
    exact merge_movesTo s.quiet s.w.result
  | drvWrite _ _ _ =>
    cases (guard_next h).2
    exact .of_eq rfl
  | drvRead _ _ =>
    obtain ⟨_, e⟩ := atLocation_next h
    cases e
    exact .of_eq rfl
  | drvTxCmd _ =>
    cases h
    exact .of_eq rfl
  | drvStatusUpdate code =>
    cases h
    exact merge_movesTo s.quiet code
  | reset =>
    cases h
    exact .of_ended rfl

theorem step_movesTo {s t : State} (h : step s = .next t) : s.ctx.MovesTo t.ctx := by
  obtain ⟨q, n, ⟨i, he⟩ | rfl⟩ := step_next h
  · exact exec_movesTo (s := (s.withQueue q).withTurns n) he
  · exact .of_eq rfl

/-! ### The rejected post (41_command_posting_status.md R163) -/

/-- A rejection raises BUSERR where BUSERR is among the reject flags. -/
theorem statusBusErr_rejectStatus {flags : BitVec 2} (h : flags.getLsbD 1 = true) (st : Byte) :
    statusBusErr (rejectStatus flags st) = true := by
  unfold statusBusErr rejectStatus
  simp [h]

/-- A STOP after a stored byte, with a non-zero code in the command field and a command in flight, is the rejection. -/
theorem execEvStop_rejects {s : State} {l : Loc} (hinv : s.Inv) (hst : s.sess.state = .readWrite)
    (hl : s.cfg.cmdFieldLoc s.sess.activePage = some l) (hcode : s.byte l.page l.off ≠ 0) (hbusy : s.ctx.command ≠ 0) :
    exec .evStop s = .next (s.quiet.takeCommand l).rejectPost := by
  obtain ⟨hvalid, _, ⟨hpage, _⟩, _⟩ := hinv
  have hpost : exec .evStop s = postFromActivePage s.quiet := by
    simp [exec, execEvStop, endTransaction, hst, ProtoState.isOpen]
  rw [hpost, postFromActivePage_eq (s := s.quiet) hpage fun _ => cmdFieldLoc_ok hvalid, quiet_cfg, quiet_sess, hl]
  rcases postCode_cases (s.quiet.takeCommand l) (s.quiet.byte l.page l.off) with ⟨h0, _⟩ | ⟨_, hidle, _⟩ | ⟨_, _, e⟩
  · exact absurd h0 hcode
  · exact absurd hidle hbusy
  · exact congrArg _ e

/-- Settles O47: every step's context move keeps, ends or finds no command; a STOP that meets a command in flight is the rejection. -/
theorem atMostOneCommandInFlight : Obligations.AtMostOneCommandInFlight := by
  refine ⟨fun s t h => (step_movesTo h).command, fun s l hinv hst hl hcode hbusy => ?_⟩
  refine ⟨_, execEvStop_rejects hinv hst hl hcode hbusy, rfl, rfl, ?_⟩
  obtain ⟨⟨_, _, _, _, _, _, _, _, hflag⟩, _⟩ := hinv
  have hbyte : (s.quiet.takeCommand l).rejectPost.byte 0 0 = rejectStatus s.cfg.rejectFlags (s.quiet.takeCommand l).status :=
    rejectPost_byte ..
  rw [hbyte]
  exact statusBusErr_rejectStatus hflag _

end Sys2Proof.Machine

namespace Sys2Proof.Machine

/-! ### A stored data byte (40_bus_state_machine.md R127, R128) -/

/-- The state after `b` is stored at the cursor. -/
def State.stored (s : State) (b : Byte) : State :=
  (((s.quiet.setByte s.sess.activePage s.sess.offset b).advance).setProto .readWrite).respond .ack

/-- Where the cursor is a location, the byte is stored. -/
theorem storeByte_eq {s : State} (h : s.CursorOk) (b : Byte) : storeByte b s = .next (s.stored b) :=
  atLocation_eq h.2

/-- Storing a byte writes the protocol state, the offset, the memory and the output, nothing else. -/
theorem stored_eq (s : State) (b : Byte) :
    s.stored b =
      { s with
        sess :=
          { s.sess with
            state := .readWrite
            offset := if s.sess.offset.toNat + 1 = s.cfg.len s.sess.activePage then 0 else s.sess.offset + 1 }
        mem := (s.stored b).mem
        out := { response := .ack } } := rfl

/-- Only the byte at the cursor changes. -/
theorem stored_byte (s : State) (b p j : Byte) :
    (s.stored b).byte p j = if p = s.sess.activePage ∧ j = s.sess.offset then b else s.byte p j := by
  unfold State.stored
  rw [respond_byte, setProto_byte, advance_byte, byte_setByte, quiet_byte]

/-- In `ReadWrite` the row DATA.NEXT and the bus event both store the byte. -/
theorem exec_storeByte_of_readWrite {s : State} {b : Byte} {i : Instr} (hi : i = .dataNext b ∨ i = .evDataW b)
    (hst : s.sess.state = .readWrite) : exec i s = storeByte b s := by
  rcases hi with rfl | rfl
  · exact if_pos hst
  · simp only [exec, execEvDataW, hst]

/-- Settles O26: the byte is stored as `State.stored` says, and `ReadWrite` was the state already. -/
theorem furtherDataByte : Obligations.FurtherDataByte := by
  intro s b i hi hst hcur
  have hexec : exec i s = .next (s.stored b) := (exec_storeByte_of_readWrite hi hst).trans (storeByte_eq hcur b)
  refine ⟨s.stored b, hexec, ?_, stored_byte s b⟩
  simpa only [hst] using stored_eq s b

end Sys2Proof.Machine

namespace Sys2Proof.Machine

/-! ### Merge in arithmetic (41_command_posting_status.md R165, R167) -/

/-- The merged status is the code above the old low nibble: the two nibbles do not overlap, so `|||` adds them. -/
theorem mergeStatus_eq_ofNat (code : Nibble) (st : Byte) :
    mergeStatus code st = BitVec.ofNat 8 (16 * code.toNat + st.toNat % 16) := by
  have hlow : st.toNat % 16 < 2 ^ 4 := Nat.mod_lt _ (by decide)
  have hmask : st.toNat &&& 15 = st.toNat % 16 := Nat.and_two_pow_sub_one_eq_mod st.toNat 4
  have hhigh : (zext8 code <<< 4).toNat = code.toNat <<< 4 := by
    simp only [zext8, BitVec.toNat_shiftLeft, BitVec.toNat_setWidth, Nat.shiftLeft_eq]
    omega
  apply BitVec.eq_of_toNat_eq
  calc (mergeStatus code st).toNat
      = code.toNat <<< 4 ||| st.toNat % 16 := by simp [mergeStatus, hhigh, hmask, -BitVec.toNat_shiftLeft]
    _ = code.toNat <<< 4 + st.toNat % 16 := (Nat.shiftLeft_add_eq_or_of_lt hlow _).symm
    _ = (BitVec.ofNat 8 (16 * code.toNat + st.toNat % 16)).toNat := by
      rw [BitVec.toNat_ofNat, Nat.shiftLeft_eq]
      omega

/-- Settles O42: `Merge` writes the memory and the context only, as `merge_ctx` and `merge_byte` say, and `mergeStatus` keeps the low nibble. -/
theorem statusUpdateMerges : Obligations.StatusUpdateMerges := by
  intro s code
  refine ⟨s.quiet.merge code, rfl, ?_, fun p i => ?_⟩
  · have hframe := merge_eq s.quiet code
    rw [merge_ctx] at hframe
    exact hframe
  · have hbyte := merge_byte s.quiet code p i
    rw [mergeStatus_eq_ofNat] at hbyte
    exact hbyte

end Sys2Proof.Machine

namespace Sys2Proof.Machine

/-! ### The worker's merges (42_worker_commands.md R182, R190) -/

/-- W.MARK in its phase merges InProgress and starts the dispatch. -/
theorem execWMark_eq {s : State} (h : s.w.phase = .mark) :
    exec .wMark s = .next ((s.quiet.merge codeInProgress).withW { s.w with phase := .exec, k := 0, hit := false }) := if_pos h

/-- W.REPORT in its phase merges the command's result and polls again. -/
theorem execWReport_eq {s : State} (h : s.w.phase = .report) :
    exec .wReport s = .next ((s.quiet.merge s.w.result).withW { s.w with phase := .poll }) := if_pos h

/-- A worker step that merges writes its own registers, the context as `merge_ctx` says, the memory and the output, nothing else. -/
theorem merge_withW_eq (s : State) (code : Nibble) (x : Worker) :
    (s.quiet.merge code).withW x =
      { s with
        w := x
        ctx := if code = codeInProgress then s.ctx else { s.ctx with lastCommand := s.ctx.command, command := 0 }
        mem := (s.quiet.merge code).mem
        out := {} } := by
  have hframe := merge_eq s.quiet code
  rw [merge_ctx] at hframe
  exact congrArg (State.withW · x) hframe

/-- The worker's registers hold no byte of the block: only the status byte changes. -/
theorem merge_withW_byte (s : State) (code : Nibble) (x : Worker) (p i : Byte) :
    ((s.quiet.merge code).withW x).byte p i =
      if p = ctrlPage ∧ i = offStatus then mergeStatus code s.status else s.byte p i :=
  merge_byte s.quiet code p i

/-- Settles O33: W.MARK merges InProgress, the one code with which `Merge` keeps the context. -/
theorem markSetsInProgress : Obligations.MarkSetsInProgress := by
  intro s hphase
  refine ⟨_, execWMark_eq hphase, ?_, merge_withW_byte s codeInProgress _⟩
  have hframe := merge_withW_eq s codeInProgress { s.w with phase := .exec, k := 0, hit := false }
  rw [if_pos rfl] at hframe
  exact hframe

/-- Settles O41: W.REPORT merges `w.result`; the context follows `merge_ctx`, and `mergeStatus_eq_ofNat` gives the status byte in arithmetic. -/
theorem reportMergesResult : Obligations.ReportMergesResult := by
  intro s hphase
  refine ⟨_, execWReport_eq hphase, merge_withW_eq s s.w.result { s.w with phase := .poll }, fun p i => ?_⟩
  have hbyte := merge_withW_byte s s.w.result { s.w with phase := .poll } p i
  rw [mergeStatus_eq_ofNat] at hbyte
  exact hbyte

end Sys2Proof.Machine

namespace Sys2Proof.Machine

/-! ### What each instruction can do: one inversion lemma for the whole machine -/

/-- The cursor at `(ap, a)`, in the write state the page's flag selects, with an ACK (40_bus_state_machine.md R126). -/
def State.selected (s : State) (ap a : Byte) : State :=
  (s.quiet.withSess
    { s.sess with
      activePage := ap, offset := a
      state := if s.cfg.rw ap then .readWriteFirstByte else .readOnly }).respond .ack

theorem selected_eq (s : State) (ap a : Byte) :
    s.selected ap a =
      { s with
        sess :=
          { s.sess with
            state := if s.cfg.rw ap then .readWriteFirstByte else .readOnly
            activePage := ap, offset := a }
        out := { response := .ack } } := rfl

/-- The state after the byte at the cursor is read (40_bus_state_machine.md R125). -/
def State.delivered (s : State) : State := s.quiet.advance.respond (.data (s.byte s.sess.activePage s.sess.offset))

/-- `l` is the active page's command field, a location, in a transaction that stored a byte. -/
structure State.PostsFrom (s : State) (l : Loc) : Prop where
  stored : s.sess.state = .readWrite
  field : s.cfg.cmdFieldLoc s.sess.activePage = some l
  inPage : l.off.toNat < s.cfg.len l.page

/-- What the end of a transaction can leave of `s`, and what stays where none is open (40_bus_state_machine.md R123, R124;
41_command_posting_status.md R161). -/
inductive Closes (s : State) : State → Prop
  | unopened (h : s.sess.state.isOpen = false) : Closes s s.quiet
  | quietly (h : s.sess.state.isOpen = true) : Closes s s.quiet.endQuietly
  | postsNone {l : Loc} (h : s.PostsFrom l) (hcode : s.byte l.page l.off = 0) : Closes s (s.quiet.takeCommand l).noPost
  | accepts {l : Loc} (h : s.PostsFrom l) (hcode : s.byte l.page l.off ≠ 0) (hidle : s.ctx.command = 0) :
      Closes s ((s.quiet.takeCommand l).acceptPost (s.byte l.page l.off))
  | rejects {l : Loc} (h : s.PostsFrom l) (hcode : s.byte l.page l.off ≠ 0) (hbusy : s.ctx.command ≠ 0) :
      Closes s (s.quiet.takeCommand l).rejectPost

/-- What executing the code in `w.cmd` can leave of `s` (42_worker_commands.md R184 to R188). -/
inductive Runs (s : State) : State → Prop
  | setsPage (hcmd : s.w.cmd = cmdCodeSetPage) (hok : s.cfg.pageArgOk s.param0 = true) :
      Runs s ((s.quiet.withSess { s.sess with page := s.param0 }).finish codeSuccess)
  | setsAddr (hcmd : s.w.cmd = cmdCodeSetDevAddr) (hok : addrArgOk s.param0 = true) :
      Runs s (((s.quiet.storeAddr s.param0).reloadAddr).finish codeSuccess)
  | restarts (hcmd : s.w.cmd = cmdCodeReset) : Runs s s.quiet.commandReset
  | fails (code : Nibble) (h : s.w.cmd.toNat < firstExtCode ∨ s.w.hung = false) : Runs s (s.quiet.finish code)
  | hangs (hcmd : firstExtCode ≤ s.w.cmd.toNat) (h : s.w.hung = true) : Runs s s.quiet
  | invokes {e : CmdEntry} (hcmd : firstExtCode ≤ s.w.cmd.toNat) (h : s.w.hung = false) (he : s.cfg.cmdTable[s.w.k]? = some e) :
      Runs s (s.quiet.invoke e)
  | skips {e : CmdEntry} (h : s.w.hung = false) (he : s.cfg.cmdTable[s.w.k]? = some e) : Runs s s.quiet.nextEntry
  | reports (h : s.w.hung = false) : Runs s (s.quiet.withW { s.w with phase := .report })

/-- What an instruction can leave of `s`: one constructor for each outcome of each shared operation. -/
inductive Effect (s : State) : Instr → State → Prop
  | closes {i : Instr} {u : State} (hi : i ∈ [.evStop, .cmdNone, .postNoField, .postNone, .postAccept, .postReject])
      (hu : Closes s u) : Effect s i u
  | addrNack {i : Instr} {u : State} (hu : Closes s u) (hst : u.sess.state = .ioFinish) : Effect s i (u.respond .nack)
  | addrAck {i : Instr} {u : State} (hu : Closes s u) (hst : u.sess.state ≠ .ioFinish) :
      Effect s i ((u.setProto .addressOrRead).respond .ack)
  | addressFaults {i : Instr} (hst : s.sess.state = .addressOrRead) : Effect s i s.quiet.enterError
  | selects {i : Instr} {ap a : Byte} (hst : s.sess.state = .addressOrRead) (ha : a.toNat < s.cfg.len ap) :
      Effect s i (s.selected ap a)
  | stores {i : Instr} {b : Byte} (hi : i ∈ [.evDataW b, .dataFirst b, .dataNext b])
      (hst : s.sess.state = .readWriteFirstByte ∨ s.sess.state = .readWrite)
      (hloc : s.sess.offset.toNat < s.cfg.len s.sess.activePage) : Effect s i (s.stored b)
  | nacks {i : Instr} (hst : s.sess.state = .readOnly ∨ s.sess.state = .error) : Effect s i s.nackByte
  | delivers (hst : s.sess.state.servesRead = true) : Effect s .evDataR s.delivered
  | runs {i : Instr} {t : State} (hi : i = .wExec ∨ i = decodeCommandByte s.w.cmd) (hph : s.w.phase = .exec) (ht : Runs s t) :
      Effect s i t
  | picksUp (hph : s.w.phase = .poll) (hst : s.sess.state = .ioFinish) :
      Effect s .wPickup ((s.quiet.setProto .idle).withW { s.w with cmd := s.ctx.command, phase := .mark })
  | polls (hst : s.sess.state ≠ .ioFinish) : Effect s .wPickup s.quiet
  | marks (hph : s.w.phase = .mark) :
      Effect s .wMark ((s.quiet.merge codeInProgress).withW { s.w with phase := .exec, k := 0, hit := false })
  | reports (hph : s.w.phase = .report) : Effect s .wReport ((s.quiet.merge s.w.result).withW { s.w with phase := .poll })
  | driverWrites {p i v : Byte} (hp : firstDriverPage ≤ p.toNat) (hi : i.toNat < s.cfg.len p) :
      Effect s (.drvWrite p i v) (s.quiet.setByte p i v)
  | driverReads {p i : Byte} : Effect s (.drvRead p i) (s.withOut { driverRead := some (s.byte p i) })
  | writesTxCommand {v : Byte} : Effect s (.drvTxCmd v) (s.quiet.setByte ctrlPage offTxCommand v)
  | statusUpdates {code : Nibble} : Effect s (.drvStatusUpdate code) (s.quiet.merge code)
  | resets : Effect s .reset s.restart

theorem postFromActivePage_closes {s t : State} (hst : s.sess.state = .readWrite) (h : postFromActivePage s.quiet = .next t) :
    Closes s t := by
  rcases postFromActivePage_next h with ⟨_, rfl⟩ | ⟨l, hfield, hloc, rfl⟩
  · exact .quietly (by rw [hst]; rfl)
  · have hposts : s.PostsFrom l := ⟨hst, hfield, hloc⟩
    rcases postCode_cases (s.quiet.takeCommand l) (s.quiet.byte l.page l.off) with ⟨hc, e⟩ | ⟨hc, hidle, e⟩ | ⟨hc, hbusy, e⟩
    · exact e ▸ .postsNone hposts hc
    · exact e ▸ .accepts hposts hc hidle
    · exact e ▸ .rejects hposts hc hbusy

theorem execEvStop_closes {s t : State} (h : execEvStop s = .next t) : Closes s t := by
  unfold execEvStop at h
  split at h
  · next hopen =>
    unfold endTransaction at h
    split at h
    · next hst => exact postFromActivePage_closes hst h
    · cases h
      exact .quietly hopen
  · next hopen =>
    cases h
    exact .unopened (by simpa using hopen)

theorem postAs_closes {o : PostOutcome} {s t : State} (h : postAs o s = .next t) : Closes s t := by
  obtain ⟨⟨hst, _⟩, h⟩ := guard_next h
  exact postFromActivePage_closes hst h

/-- An address phase closes what a STOP closes, then answers (40_bus_state_machine.md R121, R122). -/
theorem addressPhase_eq (s : State) : addressPhase s = andThen (execEvStop s) answerAddress := by
  unfold addressPhase execEvStop
  split <;> rfl

theorem answerAddress_effect {s u t : State} {i : Instr} (hu : Closes s u) (h : answerAddress u = .next t) : Effect s i t := by
  unfold answerAddress at h
  split at h
  · next hst =>
    cases h
    exact .addrNack hu hst
  · next hst =>
    cases h
    exact .addrAck hu hst

theorem addressPhase_effect {s t : State} {i : Instr} (h : addressPhase s = .next t) : Effect s i t := by
  rw [addressPhase_eq] at h
  obtain ⟨u, hu, ht⟩ := andThen_next h
  exact answerAddress_effect (execEvStop_closes hu) ht

/-- What a next state of an address byte is. -/
theorem selectLocation_next {ap a : Byte} {s t : State} (h : selectLocation ap a s = .next t) :
    t = s.quiet.enterError ∨ a.toNat < s.cfg.len ap ∧ t = s.selected ap a := by
  unfold selectLocation at h
  split at h
  · cases h
  · split at h
    · cases h
      exact .inl rfl
    · next hlen =>
      cases h
      exact .inr ⟨Nat.lt_of_not_le hlen, rfl⟩

theorem selectLocation_effect {ap a : Byte} {s t : State} {i : Instr} (hst : s.sess.state = .addressOrRead)
    (h : selectLocation ap a s = .next t) : Effect s i t := by
  rcases selectLocation_next h with rfl | ⟨hlen, rfl⟩
  · exact .addressFaults hst
  · exact .selects hst hlen

/-- What a next state of a stored byte is. -/
theorem storeByte_next {b : Byte} {s t : State} (h : storeByte b s = .next t) :
    s.sess.offset.toNat < s.cfg.len s.sess.activePage ∧ t = s.stored b := by
  obtain ⟨hloc, e⟩ := atLocation_next h
  cases e
  exact ⟨hloc, rfl⟩

theorem storeByte_effect {s t : State} {b : Byte} {i : Instr} (hi : i ∈ [.evDataW b, .dataFirst b, .dataNext b])
    (hst : s.sess.state = .readWriteFirstByte ∨ s.sess.state = .readWrite) (h : storeByte b s = .next t) : Effect s i t := by
  obtain ⟨hloc, rfl⟩ := storeByte_next h
  exact .stores hi hst hloc

theorem execEvDataW_effect {s t : State} {b : Byte} (h : execEvDataW b s = .next t) : Effect s (.evDataW b) t := by
  unfold execEvDataW at h
  split at h
  case h_1 hst => exact selectLocation_effect hst h
  case h_2 hst => exact storeByte_effect (by simp) (.inl hst) h
  case h_3 hst => exact storeByte_effect (by simp) (.inr hst) h
  case h_4 hst =>
    cases h
    exact .nacks (.inl hst)
  case h_5 hst =>
    cases h
    exact .nacks (.inr hst)
  case h_6 | h_7 => cases h

/-- One step of an extension command. -/
theorem extStep_runs {s : State} (hcmd : firstExtCode ≤ s.w.cmd.toNat) : Runs s s.quiet.extStep := by
  rw [extStep_quiet]
  split
  · next h => exact .hangs hcmd h
  · next h =>
    have hfree : s.w.hung = false := by simpa using h
    split
    · next e he =>
      split
      · exact .invokes hcmd hfree he
      · exact .skips hfree he
    · split
      · exact .reports hfree
      · exact .fails _ (.inr hfree)

theorem runCommand_runs (s : State) : Runs s s.quiet.runCommand := by
  rw [runCommand_quiet, setPage_quiet, setDevAddr_quiet]
  split_ifs with hpage hok haddr hok hreset hlow
  · exact .setsPage hpage hok
  · exact .fails _ (.inl (by rw [hpage]; decide))
  · exact .setsAddr haddr hok
  · exact .fails _ (.inl (by rw [haddr]; decide))
  · exact .restarts hreset
  · exact .fails _ (.inl hlow)
  · exact extStep_runs (Nat.le_of_not_lt hlow)

/-! The rows CMD.* are the worker's execution of their code. -/

theorem runCommand_setPage {s : State} (h : s.w.cmd = cmdCodeSetPage) : s.runCommand = s.setPage := if_pos h

theorem runCommand_setDevAddr {s : State} (h : s.w.cmd = cmdCodeSetDevAddr) : s.runCommand = s.setDevAddr := by
  simp [State.runCommand, h, cmdCodeSetPage, cmdCodeSetDevAddr]

theorem runCommand_reset {s : State} (h : s.w.cmd = cmdCodeReset) : s.runCommand = s.commandReset := by
  simp [State.runCommand, h, cmdCodeSetPage, cmdCodeSetDevAddr, cmdCodeReset]

/-- Below the extension codes, all that is not a core command is reserved, the code 0 too (42_worker_commands.md R187; log entry 12). -/
theorem runCommand_reserved {s : State} (h : s.w.cmd.toNat < firstExtCode)
    (hcore : s.w.cmd.toNat = 0 ∨ 4 ≤ s.w.cmd.toNat) : s.runCommand = s.reservedCommand := by
  have hne : ∀ c : Byte, 1 ≤ c.toNat → c.toNat ≤ 3 → s.w.cmd ≠ c := by
    rintro c hlo hhi rfl
    omega
  rw [State.runCommand, if_neg (hne _ (by decide) (by decide)), if_neg (hne _ (by decide) (by decide)),
    if_neg (hne _ (by decide) (by decide)), if_pos h]

theorem runCommand_ext {s : State} (h : firstExtCode ≤ s.w.cmd.toNat) : s.runCommand = s.extStep := by
  have hne : ∀ c : Byte, c.toNat < firstExtCode → s.w.cmd ≠ c := by
    rintro c hlt rfl
    omega
  rw [State.runCommand, if_neg (hne _ (by decide)), if_neg (hne _ (by decide)), if_neg (hne _ (by decide)),
    if_neg (Nat.not_lt.mpr h)]

theorem decodeCommandByte_reservedCode (low : BitVec 2) : decodeCommandByte (reservedCode low) = .cmdReserved low := by
  revert low
  decide

theorem decodeCommandByte_ext {c : Byte} (h : firstExtCode ≤ c.toNat) : decodeCommandByte c = .cmdExt c := by
  have hne : ∀ x : Byte, x.toNat < firstExtCode → c ≠ x := by
    rintro x hlt rfl
    omega
  rw [decodeCommandByte, if_neg (hne _ (by decide)), if_neg (hne _ (by decide)), if_neg (hne _ (by decide)),
    if_neg (hne _ (by decide)), if_neg (Nat.not_lt.mpr h)]

theorem reservedCode_toNat (low : BitVec 2) : (reservedCode low).toNat = 4 + low.toNat := by
  revert low
  decide

/-- A row CMD.* that answers a next state is the worker's execution of the code picked up. -/
theorem command_effect {s t : State} {i : Instr} {c : Byte} {f : State → State} (hrun : s.quiet.w.cmd = c → s.quiet.runCommand = f s.quiet)
    (hi : i = decodeCommandByte c) (hex : s.executing c) (h : Host.Outcome.next (f s.quiet) = (.next t : Result)) : Effect s i t := by
  cases h
  obtain ⟨hph, hcmd⟩ := hex
  rw [← hrun hcmd]
  exact .runs (.inr (by rw [hi, hcmd])) hph (runCommand_runs s)

theorem execWPickup_effect {s t : State} (h : execWPickup s = .next t) : Effect s .wPickup t := by
  obtain ⟨hph, h⟩ := guard_next h
  split at h
  · next hst =>
    cases h
    exact .picksUp hph hst
  · next hst =>
    cases h
    exact .polls hst

/-- Every next state of every instruction is one of the outcomes of `Effect`. -/
theorem exec_effect {i : Instr} {s t : State} (h : exec i s = .next t) : Effect s i t := by
  cases i with
  | evStop => exact .closes (by simp) (execEvStop_closes h)
  | evAddrW | evAddrR => exact addressPhase_effect h
  | evDataW b => exact execEvDataW_effect h
  | evDataR =>
    obtain ⟨hst, h⟩ := guard_next h
    cases (atLocation_next h).2
    exact .delivers hst
  | evNone => cases h
  | addrCtrl _ _ | addrPage _ =>
    obtain ⟨⟨hst, _⟩, h⟩ := guard_next h
    exact selectLocation_effect hst h
  | dataFirst _ =>
    obtain ⟨hst, h⟩ := guard_next h
    exact storeByte_effect (by simp) (.inl hst) h
  | dataNext _ =>
    obtain ⟨hst, h⟩ := guard_next h
    exact storeByte_effect (by simp) (.inr hst) h
  | dataRo _ =>
    obtain ⟨hst, h⟩ := guard_next h
    cases h
    exact .nacks (.inl hst)
  | dataErr _ =>
    obtain ⟨hst, h⟩ := guard_next h
    cases h
    exact .nacks (.inr hst)
  | cmdNone => exact .closes (by simp) (postAs_closes h)
  | postNoField | postNone | postAccept | postReject => exact .closes (by simp) (postAs_closes h)
  | cmdSetPage =>
    obtain ⟨hex, h⟩ := guard_next h
    exact command_effect runCommand_setPage rfl hex h
  | cmdSetDevAddr =>
    obtain ⟨hex, h⟩ := guard_next h
    exact command_effect runCommand_setDevAddr rfl hex h
  | cmdReset =>
    obtain ⟨hex, h⟩ := guard_next h
    exact command_effect runCommand_reset rfl hex h
  | cmdReserved low =>
    obtain ⟨hex, h⟩ := guard_next h
    refine command_effect (fun hcmd => runCommand_reserved ?_ ?_) (decodeCommandByte_reservedCode low).symm hex h
    · rw [hcmd, reservedCode_toNat]
      exact Nat.add_lt_add_left low.isLt 4
    · rw [hcmd, reservedCode_toNat]
      omega
  | cmdExt code =>
    obtain ⟨⟨hex, hcode⟩, h⟩ := guard_next h
    exact command_effect (fun hcmd => runCommand_ext (hcmd ▸ hcode)) (decodeCommandByte_ext hcode).symm hex h
  | wPickup => exact execWPickup_effect h
  | wMark =>
    obtain ⟨hph, h⟩ := guard_next h
    cases h
    exact .marks hph
  | wExec =>
    obtain ⟨hph, h⟩ := guard_next h
    cases h
    exact .runs (.inl rfl) hph (runCommand_runs s)
  | wReport =>
    obtain ⟨hph, h⟩ := guard_next h
    cases h
    exact .reports hph
  | drvWrite _ _ _ =>
    obtain ⟨⟨hp, _, hi⟩, h⟩ := guard_next h
    cases h
    exact .driverWrites hp hi
  | drvRead _ _ =>
    cases (atLocation_next h).2
    exact .driverReads
  | drvTxCmd _ =>
    cases h
    exact .writesTxCommand
  | drvStatusUpdate _ =>
    cases h
    exact .statusUpdates
  | reset =>
    cases h
    exact .resets

/-! ### The invariant (10_state.md R46) -/

namespace State.Inv

variable {s : State}

theorem valid (h : s.Inv) : s.cfg.Valid := h.1

theorem cursorOk (h : s.Inv) : s.CursorOk := h.2.2.1

theorem memOk (h : s.Inv) : s.MemOk := h.2.2.2.2.1

theorem writeStateOk (h : s.Inv) : s.WriteStateOk := h.2.2.2.2.2.1

theorem entryOk (h : s.Inv) : s.w.k ≤ s.cfg.cmdTable.length := h.2.2.2.2.2.2.1

theorem hungOk (h : s.Inv) : s.HungOk := h.2.2.2.2.2.2.2

end State.Inv

/-- Reading and clearing a command field keeps the invariant. -/
theorem inv_takeCommand {s : State} (h : s.Inv) {l : Loc} (hl : l.off.toNat < s.cfg.len l.page) : (s.takeCommand l).Inv :=
  inv_setByte (v := 0) h hl

theorem inv_acceptPost {s : State} (h : s.Inv) (c : Byte) : (s.acceptPost c).Inv := by
  obtain ⟨hcfg, hpage, hcur, _, hmem, hwrite, hk, hhung⟩ := inv_merge h codeInProgress
  have hlatched : ((s.merge codeInProgress).withCtx
      { (s.merge codeInProgress).ctx with command := c, lastAddress := (s.merge codeInProgress).sess.activePage }).Inv :=
    ⟨hcfg, hpage, hcur, hcur.1, hmem, hwrite, hk, hhung⟩
  exact inv_congr (inv_setProto (x := .ioFinish) hlatched (by simp)) rfl rfl rfl rfl rfl

theorem inv_rejectPost {s : State} (h : s.Inv) : s.rejectPost.Inv :=
  inv_setProto (inv_setByte h (by rw [len_ctrlPage]; decide)) (by simp)

theorem Closes.inv {s u : State} (hu : Closes s u) (h : s.Inv) : u.Inv := by
  cases hu with
  | unopened _ => exact inv_quiet h
  | quietly _ => exact inv_setProto (inv_quiet h) (by simp)
  | postsNone hp _ => exact inv_setProto (inv_takeCommand (inv_quiet h) hp.inPage) (by simp)
  | accepts hp _ _ => exact inv_acceptPost (inv_takeCommand (inv_quiet h) hp.inPage) _
  | rejects hp _ _ => exact inv_rejectPost (inv_takeCommand (inv_quiet h) hp.inPage)

/-- An address byte in range puts the cursor at a location, in the write state its page allows. -/
theorem inv_selected {s : State} (h : s.Inv) {ap a : Byte} (ha : a.toNat < s.cfg.len ap) : (s.selected ap a).Inv := by
  obtain ⟨hcfg, hpage, _, hlast, hmem, _, hk, hhung⟩ := h
  have hwrite : (s.selected ap a).WriteStateOk := by
    rw [State.WriteStateOk, selected_eq]
    cases s.cfg.rw ap <;> simp
  exact ⟨hcfg, hpage, ⟨page_lt_of_lt_len ha, ha⟩, hlast, hmem, hwrite, hk, hhung⟩

theorem inv_stored {s : State} (h : s.Inv) (b : Byte) (hst : s.sess.state = .readWriteFirstByte ∨ s.sess.state = .readWrite) :
    (s.stored b).Inv := by
  have hrw : s.cfg.rw s.sess.activePage = true := h.writeStateOk.1 hst
  obtain ⟨hcfg, hpage, hcur, hlast, hmem, _, hk, hhung⟩ := inv_advance (inv_setByte (v := b) (inv_quiet h) h.cursorOk.2)
  exact ⟨hcfg, hpage, hcur, hlast, hmem, ⟨fun _ => hrw, by rintro ⟨⟩⟩, hk, hhung⟩

/-- A handler invoked in phase Exec keeps the invariant, whether it returns or not. -/
theorem inv_invoke {s : State} (h : s.Inv) (hph : s.w.phase = .exec) (hcmd : firstExtCode ≤ s.w.cmd.toNat)
    (hfree : s.w.hung = false) {e : CmdEntry} (he : s.cfg.cmdTable[s.w.k]? = some e) : (s.invoke e).Inv := by
  have hlt : s.w.k < s.cfg.cmdTable.length := (List.getElem?_eq_some_iff.mp he).1
  have hworker : (s.withW (s.afterHandler e)).Inv := by
    cases hret : Config.handlerReturns s.draws e.handler s.w.cmd with
    | true => exact inv_withW h (by rw [afterHandler_returns s hret]; exact hlt) (by simp [afterHandler_returns s hret, hfree])
    | false => exact inv_withW h (by rw [afterHandler_hangs s hret]; exact hlt.le) (by simp [afterHandler_hangs s hret, hph, hcmd])
  exact inv_congr hworker rfl rfl rfl rfl rfl

theorem Runs.inv {s t : State} (ht : Runs s t) (hph : s.w.phase = .exec) (h : s.Inv) : t.Inv := by
  have hk : s.w.k ≤ s.cfg.cmdTable.length := h.entryOk
  cases ht with
  | setsPage hcmd hok =>
    have hfree : s.w.hung = false := not_hung h (.inr (by rw [hcmd]; decide))
    have hlt : s.param0.toNat < s.cfg.pageCount := by
      simp only [Config.pageArgOk, Bool.and_eq_true, decide_eq_true_eq] at hok
      exact hok.2
    obtain ⟨hcfg, _, hrest⟩ := inv_quiet h
    have hpage : (s.quiet.withSess { s.sess with page := s.param0 }).Inv := ⟨hcfg, hlt, hrest⟩
    exact inv_finish hpage hfree _
  | setsAddr hcmd _ =>
    have hfree : s.w.hung = false := not_hung h (.inr (by rw [hcmd]; decide))
    rw [storeAddr_quiet]
    split <;> exact inv_congr (inv_finish (inv_quiet h) hfree codeSuccess) rfl rfl rfl rfl rfl
  | restarts _ => exact inv_congr (inv_restart h) rfl rfl rfl rfl rfl
  | fails code hfree =>
    have hfree : s.w.hung = false := hfree.elim (fun hlow => not_hung h (.inr hlow)) id
    exact inv_finish (inv_quiet h) hfree code
  | hangs _ _ => exact inv_quiet h
  | invokes hcmd hfree he => exact inv_invoke (inv_quiet h) hph hcmd hfree he
  | skips hfree he =>
    exact inv_withW (inv_quiet h) (List.getElem?_eq_some_iff.mp he).1 (by simp [hfree])
  | reports hfree => exact inv_withW (inv_quiet h) hk (by simp [hfree])

theorem Effect.inv {s t : State} {i : Instr} (ht : Effect s i t) (h : s.Inv) : t.Inv := by
  have hk : s.w.k ≤ s.cfg.cmdTable.length := h.entryOk
  have hfree : s.w.phase ≠ .exec → s.w.hung = false := fun hph => not_hung h (.inl hph)
  cases ht with
  | closes _ hu => exact hu.inv h
  | addrNack hu _ => exact inv_respond (hu.inv h) _
  | addrAck hu _ => exact inv_respond (inv_setProto (hu.inv h) (by simp)) _
  | addressFaults _ => exact inv_respond (inv_setProto (inv_quiet h) (by simp)) _
  | selects _ ha => exact inv_selected h ha
  | stores _ hst _ => exact inv_stored h _ hst
  | nacks _ => exact inv_respond (inv_quiet h) _
  | delivers _ => exact inv_respond (inv_advance (inv_quiet h)) _
  | runs _ hph hr => exact hr.inv hph h
  | picksUp hph _ => exact inv_withW (inv_setProto (inv_quiet h) (by simp)) hk (by simp [hfree, hph])
  | polls _ => exact inv_quiet h
  | marks hph => exact inv_withW (inv_merge (inv_quiet h) _) (Nat.zero_le _) (by simp [hfree, hph])
  | reports hph => exact inv_withW (inv_merge (inv_quiet h) _) (by simpa using hk) (by simp [hfree, hph])
  | driverWrites _ hi => exact inv_setByte (inv_quiet h) hi
  | driverReads => exact inv_congr h rfl rfl rfl rfl rfl
  | writesTxCommand => exact inv_setByte (inv_quiet h) (by rw [len_ctrlPage]; decide)
  | statusUpdates => exact inv_merge (inv_quiet h) _
  | resets => exact inv_restart h

/-- Settles O46: each outcome of `Effect` keeps the invariant, and a step differs from an instruction in the queue and the turns only. -/
theorem stepKeepsInvariant : Obligations.StepKeepsInvariant := by
  intro s t h hstep
  have hfetched : ∀ q n, ((s.withQueue q).withTurns n).Inv := fun q n => inv_congr h rfl rfl rfl rfl rfl
  obtain ⟨q, n, ⟨i, hexec⟩ | rfl⟩ := step_next hstep
  · exact (exec_effect hexec).inv (hfetched q n)
  · exact inv_quiet (hfetched q n)

end Sys2Proof.Machine

namespace Sys2Proof.Machine

/-! ### Faults (20_memory.md R61) -/

/-- A guarded meaning that faults met its guard. -/
theorem guard_fault {c : Prop} [Decidable c] {r : Result} {x : Refusal} {f : Fault}
    (h : (if c then r else .refused x) = .fault f) : c ∧ r = .fault f := by
  split at h
  · next hc => exact ⟨hc, h⟩
  · cases h

theorem selectLocation_no_fault {ap a : Byte} {s : State} {x : Fault} : selectLocation ap a s ≠ .fault x := by
  unfold selectLocation
  split
  · simp
  · split <;> simp

theorem storeByte_no_fault {s : State} (h : s.CursorOk) {b : Byte} {x : Fault} : storeByte b s ≠ .fault x := by
  simp [storeByte_eq h]

/-- Where the active page exists and the configuration is valid, the end of a transaction has an answer. -/
theorem execEvStop_answers {s : State} (h : s.Inv) : ∃ u, execEvStop s = .next u := by
  obtain ⟨hvalid, _, ⟨hpage, _⟩, _⟩ := h
  unfold execEvStop endTransaction
  split
  · split
    · exact ⟨_, postFromActivePage_eq (s := s.quiet) hpage fun _ => cmdFieldLoc_ok hvalid⟩
    · exact ⟨_, rfl⟩
  · exact ⟨_, rfl⟩

theorem execEvStop_of_readWrite {s : State} (h : s.sess.state = .readWrite) : execEvStop s = postFromActivePage s.quiet := by
  simp [execEvStop, endTransaction, h, ProtoState.isOpen]

/-- A row POST.* answers what the STOP answers, where its outcome is the one that holds (log entry 11). -/
theorem postAs_of_outcome {s : State} {o : PostOutcome} (hst : s.sess.state = .readWrite) (ho : s.postOutcome = o) :
    postAs o s = execEvStop s := by
  rw [execEvStop_of_readWrite hst]
  exact if_pos ⟨hst, ho⟩

theorem postAs_no_fault {s : State} (h : s.Inv) {o : PostOutcome} {x : Fault} : postAs o s ≠ .fault x := by
  intro hf
  obtain ⟨⟨hst, ho⟩, _⟩ := guard_fault hf
  obtain ⟨u, hu⟩ := execEvStop_answers h
  rw [postAs_of_outcome hst ho, hu] at hf
  cases hf

theorem addressPhase_no_fault {s : State} (h : s.Inv) {x : Fault} : addressPhase s ≠ .fault x := by
  obtain ⟨u, hu⟩ := execEvStop_answers h
  rw [addressPhase_eq, hu]
  show answerAddress u ≠ _
  unfold answerAddress
  split <;> simp

theorem execEvDataW_no_fault {s : State} (h : s.CursorOk) {b : Byte} {x : Fault} : execEvDataW b s ≠ .fault x := by
  unfold execEvDataW
  split
  case h_1 => exact selectLocation_no_fault
  case h_2 | h_3 => exact storeByte_no_fault h
  case h_4 | h_5 | h_6 | h_7 => simp

/-- Settles O48: under the invariant the cursor and every command field are locations, so only DRV.READ names one that may not exist. -/
theorem invariantStatesNeverFault : Obligations.InvariantStatesNeverFault := by
  intro s i x hinv h
  have hcur : s.CursorOk := hinv.cursorOk
  cases i with
  | evStop =>
    obtain ⟨u, hu⟩ := execEvStop_answers hinv
    cases hu.symm.trans h
  | evAddrW | evAddrR => exact absurd h (addressPhase_no_fault hinv)
  | evDataW _ => exact absurd h (execEvDataW_no_fault hcur)
  | evDataR =>
    have hread := (guard_fault h).2
    rw [deliverByte, atLocation_eq hcur.2] at hread
    cases hread
  | addrCtrl _ _ | addrPage _ => exact absurd (guard_fault h).2 selectLocation_no_fault
  | dataFirst _ | dataNext _ => exact absurd (guard_fault h).2 (storeByte_no_fault hcur)
  | cmdNone | postNoField | postNone | postAccept | postReject => exact absurd h (postAs_no_fault hinv)
  | wPickup =>
    have hpoll := (guard_fault h).2
    split at hpoll <;> cases hpoll
  | dataRo _ | dataErr _ | cmdSetPage | cmdSetDevAddr | cmdReset | cmdReserved _ | cmdExt _ | wMark | wExec | wReport
  | drvWrite _ _ _ => cases (guard_fault h).2
  | evNone | drvTxCmd _ | drvStatusUpdate _ | reset => cases h
  | drvRead p o =>
    refine ⟨p, o, rfl, ?_⟩
    rcases atLocation_cases s p o (.next (s.withOut { driverRead := some (s.byte p o) })) with ⟨_, e⟩ | ⟨_, e⟩ | ⟨_, hlen, _⟩
    · cases h.symm.trans e
    · cases h.symm.trans e
    · exact hlen

/-! ### What most outcomes leave alone: configuration, sticky page, non-volatile byte and live address -/

/-- `t` has the configuration, the sticky page, the non-volatile byte and the live address of `s`, and reports no non-volatile write. -/
structure State.Keeps (s t : State) : Prop where
  cfg : t.cfg = s.cfg
  page : t.sess.page = s.sess.page
  nvm : t.nvm = s.nvm
  devAddr : t.devAddr = s.devAddr
  noWrite : t.out.nvmWrite = none

theorem Closes.keeps {s u : State} (h : Closes s u) : s.Keeps u := by
  cases h <;> exact ⟨rfl, rfl, rfl, rfl, rfl⟩

/-- Only the commands 1 to 3 touch what `State.Keeps` names. -/
theorem Runs.keeps {s t : State} (h : Runs s t) (h1 : s.w.cmd ≠ cmdCodeSetPage) (h2 : s.w.cmd ≠ cmdCodeSetDevAddr)
    (h3 : s.w.cmd ≠ cmdCodeReset) : s.Keeps t := by
  cases h with
  | setsPage hcmd _ => exact absurd hcmd h1
  | setsAddr hcmd _ => exact absurd hcmd h2
  | restarts hcmd => exact absurd hcmd h3
  | fails _ _ | hangs _ _ | invokes _ _ _ | skips _ _ | reports _ => exact ⟨rfl, rfl, rfl, rfl, rfl⟩

/-- An outcome keeps all of `State.Keeps`, executes a command, or is the reset. -/
theorem Effect.keeps {s t : State} {i : Instr} (h : Effect s i t) :
    s.Keeps t ∨ ((i = .wExec ∨ i = decodeCommandByte s.w.cmd) ∧ Runs s t) ∨ (i = .reset ∧ t = s.restart) := by
  cases h with
  | closes _ hu => exact .inl hu.keeps
  | addrNack hu _ | addrAck hu _ =>
    obtain ⟨hcfg, hpage, hnvm, haddr, hout⟩ := hu.keeps
    exact .inl ⟨hcfg, hpage, hnvm, haddr, hout⟩
  | runs hi _ hr => exact .inr (.inl ⟨hi, hr⟩)
  | resets => exact .inr (.inr ⟨rfl, rfl⟩)
  | marks _ | reports _ | statusUpdates => exact .inl ⟨by simp, by simp, by simp, by simp, by simp⟩
  | addressFaults _ | selects _ _ | stores _ _ _ | nacks _ | delivers _ | picksUp _ _ | polls _ | driverWrites _ _ | driverReads
  | writesTxCommand => exact .inl ⟨rfl, rfl, rfl, rfl, rfl⟩

theorem Runs.cfg {s t : State} (h : Runs s t) : t.cfg = s.cfg := by
  cases h with
  | setsAddr _ _ =>
    rw [storeAddr_quiet]
    split <;> rfl
  | setsPage _ _ | restarts _ | fails _ _ | hangs _ _ | invokes _ _ _ | skips _ _ | reports _ => rfl

theorem Effect.cfg {s t : State} {i : Instr} (h : Effect s i t) : t.cfg = s.cfg := by
  rcases h.keeps with hk | ⟨_, hr⟩ | ⟨_, rfl⟩
  · exact hk.cfg
  · exact hr.cfg
  · rfl

/-- Which instruction executes the code `c`: its own row, or W.EXEC. -/
theorem row_of_code {s : State} {i : Instr} {c : Byte} (hi : i = .wExec ∨ i = decodeCommandByte s.w.cmd) (hcmd : s.w.cmd = c) :
    i = decodeCommandByte c ∨ (i = .wExec ∧ s.w.cmd.toNat = c.toNat) := by
  subst hcmd
  exact hi.symm.imp id fun h => ⟨h, rfl⟩

/-- Settles O49: no outcome of `Effect` touches `cfg`. -/
theorem configurationIsImmutable : Obligations.ConfigurationIsImmutable := by
  intro s t hstep
  obtain ⟨q, n, ⟨i, hexec⟩ | rfl⟩ := step_next hstep
  · exact (exec_effect hexec).cfg
  · rfl

/-- Settles O50: of the outcomes that may touch the sticky page, SetDeviceAddress does not. -/
theorem onlySetPageMovesTheStickyPage : Obligations.OnlySetPageMovesTheStickyPage := by
  intro i s t hexec hmoved
  rcases (exec_effect hexec).keeps with hk | ⟨hi, hr⟩ | ⟨hi, _⟩
  · exact absurd hk.page hmoved
  · cases hr with
    | setsPage hcmd _ =>
      rcases row_of_code hi hcmd with hrow | ⟨hrow, hcode⟩
      · exact .inl hrow
      · exact .inr (.inr (.inr ⟨hrow, .inl hcode⟩))
    | restarts hcmd =>
      rcases row_of_code hi hcmd with hrow | ⟨hrow, hcode⟩
      · exact .inr (.inl hrow)
      · exact .inr (.inr (.inr ⟨hrow, .inr hcode⟩))
    | setsAddr _ _ =>
      rw [storeAddr_quiet] at hmoved
      split at hmoved <;> exact absurd rfl hmoved
    | fails _ _ | hangs _ _ | invokes _ _ _ | skips _ _ | reports _ => exact absurd rfl hmoved
  · exact .inr (.inr (.inl hi))

/-- Storing an address reports a write of the byte exactly where `nvm` changes (42_worker_commands.md R185). -/
theorem storeAddr_reports (s : State) (v : Byte) :
    (s.quiet.storeAddr v).nvm = v ∧ (s.quiet.storeAddr v).out.nvmWrite = if v = s.nvm then none else some v := by
  rw [storeAddr_quiet]
  split
  · next h => simp [h]
  · next h => simp [Ne.symm h]

/-- Settles O51: of the outcomes that may touch the non-volatile byte or the live address, SetPage touches neither, a restart keeps `nvm`. -/
theorem nonVolatileWritesAreMinimal : Obligations.NonVolatileWritesAreMinimal := by
  intro i s t hexec
  rcases (exec_effect hexec).keeps with hk | ⟨hi, hr⟩ | ⟨rfl, rfl⟩
  · simp [hk.nvm, hk.devAddr, hk.noWrite]
  · cases hr with
    | setsAddr hcmd _ =>
      obtain ⟨hnvm, hout⟩ := storeAddr_reports s s.param0
      have hrow := row_of_code hi hcmd
      refine ⟨?_, fun _ => hrow, fun _ => ?_⟩
      · show (s.quiet.storeAddr s.param0).out.nvmWrite =
          if (s.quiet.storeAddr s.param0).nvm = s.nvm then none else some (s.quiet.storeAddr s.param0).nvm
        rw [hout, hnvm]
      · rcases hrow with hrow | ⟨hrow, hcode⟩
        · exact .inl hrow
        · exact .inr (.inr (.inr ⟨hrow, .inl hcode⟩))
    | restarts hcmd =>
      refine ⟨(if_pos rfl).symm, fun h => absurd rfl h, fun _ => ?_⟩
      rcases row_of_code hi hcmd with hrow | ⟨hrow, hcode⟩
      · exact .inr (.inl hrow)
      · exact .inr (.inr (.inr ⟨hrow, .inr hcode⟩))
    | setsPage _ _ | fails _ _ | hangs _ _ | invokes _ _ _ | skips _ _ | reports _ =>
      exact ⟨(if_pos rfl).symm, fun h => absurd rfl h, fun h => absurd rfl h⟩
  · exact ⟨(if_pos rfl).symm, fun h => absurd rfl h, fun _ => .inr (.inr (.inl rfl))⟩

end Sys2Proof.Machine

namespace Sys2Proof.Machine

/-! ### Which bytes an outcome writes -/

/-- The end of a transaction writes the status byte and its page's command field, no other byte. -/
theorem Closes.byte {s u : State} (h : Closes s u) {p i : Byte} (hstatus : p ≠ ctrlPage ∨ i ≠ offStatus)
    (hfield : ∀ q, s.cfg.cmdFieldLoc q ≠ some ⟨p, i⟩) : u.byte p i = s.byte p i := by
  have htaken : ∀ l, s.PostsFrom l → (s.quiet.takeCommand l).byte p i = s.byte p i := by
    intro l hl
    rw [takeCommand_byte, if_neg, quiet_byte]
    rintro ⟨rfl, rfl⟩
    exact hfield _ hl.field
  have hne : ¬ (p = ctrlPage ∧ i = offStatus) := not_and_or.mpr hstatus
  cases h with
  | unopened _ | quietly _ => rfl
  | postsNone hp _ => exact htaken _ hp
  | accepts hp _ _ => rw [acceptPost_byte, if_neg hne, htaken _ hp]
  | rejects hp _ _ => rw [rejectPost_byte, if_neg hne, htaken _ hp]

/-- Executing a command writes no byte, but for the restart, which leaves every byte at its reset contents. -/
theorem Runs.mem {s t : State} (h : Runs s t) : t.mem = s.mem ∨ s.w.cmd = cmdCodeReset ∧ t = s.quiet.commandReset := by
  cases h with
  | restarts hcmd => exact .inr ⟨hcmd, rfl⟩
  | setsAddr _ _ =>
    rw [storeAddr_quiet]
    split <;> exact .inl rfl
  | setsPage _ _ | fails _ _ | hangs _ _ | invokes _ _ _ | skips _ _ | reports _ => exact .inl rfl

theorem byte_of_mem_eq {s t : State} (hc : t.cfg = s.cfg) (hm : t.mem = s.mem) (p i : Byte) : t.byte p i = s.byte p i := by
  unfold State.byte
  rw [hc, hm]

/-! ### The device-info page (10_state.md R39) -/

theorem rw_devInfo (c : Config) : c.rw 1 = false := rfl

/-- Where no command field lies in it, an outcome leaves the device-info page alone or is a restart. -/
theorem Effect.devInfo {s t : State} {i : Instr} (h : Effect s i t) (hinv : s.Inv) (hno : s.cfg.NoFieldIn 1) (j : Byte) :
    t.byte 1 j = s.byte 1 j ∨ t.mem = [] := by
  have hfield : ∀ q, s.cfg.cmdFieldLoc q ≠ some ⟨1, j⟩ := fun q hq => hno q _ hq rfl
  have hpage : (1 : Byte) ≠ ctrlPage := by decide
  cases h with
  | closes _ hu | addrNack hu _ | addrAck hu _ => exact .inl (hu.byte (.inl hpage) hfield)
  | stores _ hst _ =>
    have hrw : s.cfg.rw s.sess.activePage = true := hinv.writeStateOk.1 hst
    have hactive : (1 : Byte) ≠ s.sess.activePage := by
      intro he
      rw [← he, rw_devInfo] at hrw
      cases hrw
    exact .inl (by rw [stored_byte, if_neg (fun he => hactive he.1)])
  | runs _ _ hr =>
    rcases hr.mem with hm | ⟨_, rfl⟩
    · exact .inl (byte_of_mem_eq hr.cfg hm 1 j)
    · exact .inr rfl
  | marks _ | reports _ => exact .inl (by rw [merge_withW_byte, if_neg (fun he => hpage he.1)])
  | statusUpdates => exact .inl (by rw [merge_byte, if_neg (fun he => hpage he.1), quiet_byte])
  | @driverWrites p _ _ hp _ =>
    have hdriver : (1 : Byte) ≠ p := by
      rintro rfl
      exact absurd hp (by decide)
    exact .inl (by rw [byte_setByte, if_neg (fun he => hdriver he.1), quiet_byte])
  | writesTxCommand => exact .inl (by rw [byte_setByte, if_neg (fun he => hpage he.1), quiet_byte])
  | resets => exact .inr rfl
  | addressFaults _ | selects _ _ | nacks _ | delivers _ | picksUp _ _ | polls _ | driverReads => exact .inl rfl

/-- Settles O52: an outcome leaves the page's bytes alone, or is a restart, after which every byte holds its reset contents. -/
theorem deviceInfoPageIsNeverWritten : Obligations.DeviceInfoPageIsNeverWritten := by
  intro s t hinv hno hintact hstep j
  obtain ⟨q, n, ⟨i, hexec⟩ | rfl⟩ := step_next hstep
  · have heff := exec_effect hexec
    have hcfg : t.cfg = s.cfg := heff.cfg
    rcases heff.devInfo (inv_congr hinv rfl rfl rfl rfl rfl) hno j with hb | hm
    · rw [hb, hcfg]
      exact hintact j
    · unfold State.byte
      rw [hm]
      rfl
  · exact hintact j

/-! ### The status byte (10_state.md R34) -/

/-- What an instruction that is no bus data event may make of the status byte: it stays, a code is merged into it, a rejection sets flags, or
a restart leaves no command in flight. -/
inductive State.StatusMoves (s t : State) : Prop
  | stays (h : t.status = s.status)
  | merges (code : Nibble) (h : t.status = mergeStatus code s.status) (hcode : code = codeInProgress ∨ t.ctx.command = 0)
  | rejects (h : t.status = rejectStatus s.cfg.rejectFlags s.status)

theorem merge_status (s : State) (code : Nibble) : (s.merge code).status = mergeStatus code s.status := by
  unfold State.status
  rw [merge_byte, if_pos ⟨rfl, rfl⟩]
  rfl

/-- A merged code is InProgress, or no command is in flight after it (41_command_posting_status.md R165). -/
theorem merge_ends (s : State) (code : Nibble) : code = codeInProgress ∨ (s.merge code).ctx.command = 0 := by
  rw [merge_ctx]
  split
  · next h => exact .inl h
  · exact .inr rfl

theorem Closes.status {s u : State} (h : Closes s u) (hno : s.cfg.NoFieldAtStatus) : s.StatusMoves u := by
  have htaken : ∀ l, s.PostsFrom l → (s.quiet.takeCommand l).status = s.status := by
    intro l hl
    unfold State.status
    rw [takeCommand_byte, if_neg, quiet_byte]
    rintro ⟨hp, hi⟩
    exact hno s.sess.activePage (by rw [hl.field, hp, hi])
  cases h with
  | unopened _ | quietly _ => exact .stays rfl
  | postsNone hp _ => exact .stays (htaken _ hp)
  | accepts hp _ _ =>
    refine .merges codeInProgress ?_ (.inl rfl)
    rw [← htaken _ hp]
    exact acceptPost_byte _ _ ctrlPage offStatus
  | rejects hp _ _ =>
    refine .rejects ?_
    rw [← htaken _ hp]
    exact rejectPost_byte _ ctrlPage offStatus

/-- An outcome other than a stored byte moves the status byte as `State.StatusMoves` says, or is a restart. -/
theorem Effect.status {s t : State} {i : Instr} (h : Effect s i t) (hno : s.cfg.NoFieldAtStatus)
    (hbus : ∀ b, i ≠ .evDataW b ∧ i ≠ .dataFirst b ∧ i ≠ .dataNext b) :
    s.StatusMoves t ∨
      ((i = .cmdReset ∨ i = .reset ∨ (i = .wExec ∧ s.w.cmd.toNat = 3)) ∧ t.ctx.command = 0) := by
  cases h with
  | closes _ hu => exact .inl (hu.status hno)
  | addrNack hu _ | addrAck hu _ =>
    cases hu.status hno with
    | stays h => exact .inl (.stays h)
    | merges code h hcode => exact .inl (.merges code h hcode)
    | rejects h => exact .inl (.rejects h)
  | @stores _ b hi _ _ =>
    obtain ⟨h1, h2, h3⟩ := hbus b
    simp [h1, h2, h3] at hi
  | runs hi _ hr =>
    rcases hr.mem with hm | ⟨hcmd, rfl⟩
    · exact .inl (.stays (byte_of_mem_eq hr.cfg hm _ _))
    · exact .inr ⟨(row_of_code hi hcmd).imp id .inr, rfl⟩
  | marks _ => exact .inl (.merges codeInProgress (merge_status ..) (.inl rfl))
  | reports _ => exact .inl (.merges s.w.result (merge_status ..) (merge_ends ..))
  | @statusUpdates code => exact .inl (.merges code (merge_status ..) (merge_ends ..))
  | @driverWrites p _ _ hp _ =>
    have hdriver : ctrlPage ≠ p := by
      rintro rfl
      exact absurd hp (by decide)
    refine .inl (.stays ?_)
    unfold State.status
    rw [byte_setByte, if_neg (fun he => hdriver he.1), quiet_byte]
  | writesTxCommand =>
    refine .inl (.stays ?_)
    unfold State.status
    rw [byte_setByte, if_neg (by decide), quiet_byte]
  | resets => exact .inr ⟨.inr (.inl rfl), rfl⟩
  | addressFaults _ | selects _ _ | nacks _ | delivers _ | picksUp _ _ | polls _ | driverReads => exact .inl (.stays rfl)

/-- `Merge` keeps the low nibble. -/
theorem getLsbD_mergeStatus {n : Nat} (hn : n < 4) (code : Nibble) (st : Byte) :
    (mergeStatus code st).getLsbD n = st.getLsbD n := by
  have hmask : (15#8).getLsbD n = true := by interval_cases n <;> rfl
  simp [mergeStatus, hn, hmask]

/-- A rejection clears no bit. -/
theorem getLsbD_rejectStatus {n : Nat} {flags : BitVec 2} {st : Byte} (h : st.getLsbD n = true) :
    (rejectStatus flags st).getLsbD n = true := by
  simp [rejectStatus, h]

theorem statusCode_mergeStatus (code : Nibble) (st : Byte) : statusCode (mergeStatus code st) = code := by
  apply BitVec.eq_of_toNat_eq
  rw [mergeStatus_eq_ofNat]
  simp only [statusCode, hiNibble, BitVec.extractLsb'_toNat, BitVec.toNat_ofNat, Nat.shiftRight_eq_div_pow]
  omega

/-- The reject flags lie below the code (41_command_posting_status.md R163). -/
theorem statusCode_rejectStatus (flags : BitVec 2) (st : Byte) : statusCode (rejectStatus flags st) = statusCode st := by
  apply BitVec.eq_of_getLsbD_eq
  intro k hk
  simp [statusCode, hiNibble, rejectStatus, BitVec.getLsbD_of_ge flags (4 + k) (by omega)]

/-- A status bit below the code that is set stays set. -/
theorem State.StatusMoves.keeps_set {s t : State} (h : s.StatusMoves t) {n : Nat} (hn : n < 4) (hset : s.status.getLsbD n = true) :
    t.status.getLsbD n = true := by
  cases h with
  | stays h => rw [h, hset]
  | merges code h _ => rw [h, getLsbD_mergeStatus hn, hset]
  | rejects h => rw [h, getLsbD_rejectStatus hset]

/-- Settles O53: outside the bus data events and restarts the status byte moves as `State.StatusMoves` says, which clears no flag. -/
theorem statusFlagsAreSticky : Obligations.StatusFlagsAreSticky := by
  intro i s t hno hexec hbus hcmd hreset hrun
  rcases (exec_effect hexec).status hno hbus with hmoves | ⟨hrestart, _⟩
  · exact ⟨hmoves.keeps_set (by decide), hmoves.keeps_set (by decide)⟩
  · rcases hrestart with h | h | h
    · exact absurd h hcmd
    · exact absurd h hreset
    · exact absurd h hrun

/-- Settles O54: with a command still in flight a merge is of InProgress, and a rejection keeps the code. -/
theorem inFlightStatusStaysInProgress : Obligations.InFlightStatusStaysInProgress := by
  intro i s t hno hexec hbus _ hafter hcode
  rcases (exec_effect hexec).status hno hbus with hmoves | ⟨_, hended⟩
  · cases hmoves with
    | stays h => rw [h, hcode]
    | merges code h hin =>
      rw [h, statusCode_mergeStatus]
      exact hin.resolve_right hafter
    | rejects h => rw [h, statusCode_rejectStatus, hcode]
  · exact absurd hended hafter

/-! ### `IoFinish` and the worker inside a handler (40_bus_state_machine.md section 5, 60_exceptions.md R236) -/

theorem Closes.of_unopened {s u : State} (h : Closes s u) (hst : s.sess.state.isOpen = false) : u = s.quiet := by
  have hwrite : s.sess.state ≠ .readWrite := by
    intro he
    rw [he] at hst
    cases hst
  cases h with
  | unopened _ => rfl
  | quietly hopen => cases hopen.symm.trans hst
  | postsNone hp _ | accepts hp _ _ | rejects hp _ _ => exact absurd hp.stored hwrite

theorem Runs.state {s t : State} (h : Runs s t) :
    t.sess.state = s.sess.state ∨ s.w.cmd = cmdCodeReset ∧ t = s.quiet.commandReset := by
  cases h with
  | restarts hcmd => exact .inr ⟨hcmd, rfl⟩
  | setsAddr _ _ =>
    rw [storeAddr_quiet]
    split <;> exact .inl rfl
  | setsPage _ _ | fails _ _ | hangs _ _ | invokes _ _ _ | skips _ _ | reports _ => exact .inl rfl

/-- Only the pickup and a restart leave `IoFinish`. -/
theorem Effect.leaves_ioFinish {s t : State} {i : Instr} (h : Effect s i t) (hst : s.sess.state = .ioFinish) :
    t.sess.state = .ioFinish ∨ i = .wPickup ∨ i = .cmdReset ∨ i = .reset ∨ (i = .wExec ∧ s.w.cmd.toNat = 3) := by
  have hclosed : ∀ u, Closes s u → u.sess.state = .ioFinish := by
    intro u hu
    rw [hu.of_unopened (by rw [hst]; rfl)]
    exact hst
  cases h with
  | closes _ hu => exact .inl (hclosed _ hu)
  | addrNack _ hst => exact .inl hst
  | addrAck hu hne => exact absurd (hclosed _ hu) hne
  | runs hi _ hr =>
    rcases hr.state with he | ⟨hcmd, _⟩
    · exact .inl (he.trans hst)
    · exact .inr (.inr ((row_of_code hi hcmd).imp id .inr))
  | stores _ hs _ | nacks hs => rcases hs with hs | hs <;> cases hs.symm.trans hst
  | addressFaults hs | selects hs _ => cases hs.symm.trans hst
  | delivers hs =>
    rw [hst] at hs
    cases hs
  | picksUp _ _ => exact .inr (.inl rfl)
  | polls hne => exact absurd hst hne
  | marks _ | reports _ | statusUpdates => exact .inl (by simpa using hst)
  | driverWrites _ _ | driverReads | writesTxCommand => exact .inl hst
  | resets => simp

/-- While a command awaits pickup an address phase is NACKed and changes nothing (40_bus_state_machine.md R121). -/
theorem addressPhase_ioFinish {s : State} (h : s.sess.state = .ioFinish) : addressPhase s = .next (s.quiet.respond .nack) := by
  rw [addressPhase, if_neg (by simp [h, ProtoState.isOpen])]
  exact if_pos h

theorem exec_addr {i : Instr} (hi : i = .evAddrW ∨ i = .evAddrR) (s : State) : exec i s = addressPhase s := by
  rcases hi with rfl | rfl <;> rfl

/-- Settles O55: the gate is `addressPhase_ioFinish`, the exits are those of `Effect.leaves_ioFinish`. -/
theorem ioFinishGatesTheBus : Obligations.IoFinishGatesTheBus := by
  intro i s t hst hexec
  refine ⟨fun hi => ?_, (exec_effect hexec).leaves_ioFinish hst⟩
  rw [exec_addr hi, addressPhase_ioFinish hst] at hexec
  cases hexec
  rfl

/-- Address phases and STOPs leave the block in `IoFinish` as it is, but for the output of the last of them. -/
theorem execAll_ioFinish {s : State} (h : s.sess.state = .ioFinish) {i : Instr} (hi : i = .evAddrW ∨ i = .evAddrR)
    {is : List Instr} (his : ∀ j ∈ is, j = .evAddrW ∨ j = .evAddrR ∨ j = .evStop) :
    execAll (is ++ [i]) s = .next (s.quiet.respond .nack) := by
  induction is generalizing s with
  | nil =>
    show andThen (exec i s) (execAll []) = _
    rw [exec_addr hi, addressPhase_ioFinish h]
    rfl
  | cons j is ih =>
    have hrest : ∀ k ∈ is, k = .evAddrW ∨ k = .evAddrR ∨ k = .evStop := fun k hk => his k (List.mem_cons_of_mem j hk)
    have hj : exec j s = .next (s.quiet.respond .nack) ∨ exec j s = .next s.quiet := by
      rcases his j List.mem_cons_self with hj | hj | rfl
      · exact .inl ((exec_addr (.inl hj) s).trans (addressPhase_ioFinish h))
      · exact .inl ((exec_addr (.inr hj) s).trans (addressPhase_ioFinish h))
      · exact .inr (if_neg (by simp [h, ProtoState.isOpen]))
    show andThen (exec j s) (execAll (is ++ [i])) = _
    rcases hj with e | e
    · rw [e]
      exact ih (s := s.quiet.respond .nack) h hrest
    · rw [e]
      exact ih (s := s.quiet) h hrest

/-- Settles O59, by induction on the events before the last address phase. -/
theorem wedgedWorkerKeepsTheBusNacked : Obligations.WedgedWorkerKeepsTheBusNacked :=
  fun _ _ _ hst his hi => execAll_ioFinish hst hi his

theorem Closes.w {s u : State} (h : Closes s u) : u.w = s.w := by
  cases h <;> rfl

/-- With a command in flight the end of a transaction leaves the context alone and does not enter `IoFinish`. -/
theorem Closes.of_busy {s u : State} (h : Closes s u) (hbusy : s.ctx.command ≠ 0) :
    u.ctx = s.ctx ∧ (s.sess.state ≠ .ioFinish → u.sess.state ≠ .ioFinish) := by
  cases h with
  | unopened _ => exact ⟨rfl, id⟩
  | quietly _ | postsNone _ _ | rejects _ _ _ => exact ⟨rfl, fun _ => by rintro ⟨⟩⟩
  | accepts _ _ hidle => exact absurd hidle hbusy

/-- Inside a handler the worker's iteration does nothing. -/
theorem Runs.of_hung {s t : State} (h : Runs s t) (hcmd : firstExtCode ≤ s.w.cmd.toNat) (hhung : s.w.hung = true) : t = s.quiet := by
  have hcore : ∀ c : Byte, c.toNat < firstExtCode → s.w.cmd ≠ c := by
    rintro c hlt rfl
    omega
  have hfree : s.w.hung ≠ false := by simp [hhung]
  cases h with
  | hangs _ _ => rfl
  | setsPage he _ | setsAddr he _ | restarts he => exact absurd he (hcore _ (by decide))
  | fails _ hf => exact absurd (hf.resolve_left (by omega)) hfree
  | invokes _ hf _ | skips hf _ | reports hf => exact absurd hf hfree

/-- What stays of `s` while its worker is inside a handler: the worker, and with a command in flight that command and a bus that is not in
`IoFinish`, the command but for a terminal `StatusUpdate`. -/
structure State.KeepsHung (s : State) (i : Instr) (t : State) : Prop where
  worker : t.w = s.w
  command : s.ctx.command ≠ 0 → (∀ code, i = .drvStatusUpdate code → code = 1) → t.ctx.command = s.ctx.command
  bus : s.ctx.command ≠ 0 → s.sess.state ≠ .ioFinish → t.sess.state ≠ .ioFinish

theorem Closes.keepsHung {s u : State} (h : Closes s u) (i : Instr) : s.KeepsHung i u :=
  ⟨h.w, fun hbusy _ => by rw [(h.of_busy hbusy).1], fun hbusy => (h.of_busy hbusy).2⟩

theorem Effect.keepsHung {s t : State} {i : Instr} (h : Effect s i t) (hinv : s.Inv) (hhung : s.w.hung = true)
    (hi : i ≠ .reset) : s.KeepsHung i t := by
  obtain ⟨hph, hcmd⟩ := hinv.hungOk hhung
  have hphase : ∀ p, s.w.phase = p → p = .exec := fun p hp => hp.symm.trans hph
  cases h with
  | closes _ hu => exact hu.keepsHung i
  | addrNack hu hst =>
    obtain ⟨hw, hctx, hbus⟩ := hu.keepsHung i
    exact ⟨hw, hctx, hbus⟩
  | addrAck hu _ =>
    obtain ⟨hw, hctx, _⟩ := hu.keepsHung i
    exact ⟨hw, hctx, fun _ _ => by rintro ⟨⟩⟩
  | selects _ _ =>
    refine ⟨rfl, fun _ _ => rfl, fun _ _ => ?_⟩
    rw [selected_eq]
    simp only
    split <;> simp
  | runs _ _ hr =>
    rw [hr.of_hung hcmd hhung]
    exact ⟨rfl, fun _ _ => rfl, fun _ hst => hst⟩
  | picksUp hp _ | marks hp | reports hp => cases hphase _ hp
  | @statusUpdates code =>
    refine ⟨merge_w .., fun _ hcode => ?_, fun _ hst => by simpa using hst⟩
    rw [hcode code rfl, merge_ctx]
    rfl
  | resets => exact absurd rfl hi
  | addressFaults _ | stores _ _ _ => exact ⟨rfl, fun _ _ => rfl, fun _ _ => by rintro ⟨⟩⟩
  | nacks _ | delivers _ | polls _ | driverWrites _ _ | driverReads | writesTxCommand =>
    exact ⟨rfl, fun _ _ => rfl, fun _ hst => hst⟩

/-- Settles O58: what a worker inside a handler leaves is `State.KeepsHung`, and the reset values hold no command and no handler. -/
theorem hungHandlerStopsTheWorker : Obligations.HungHandlerStopsTheWorker := by
  refine ⟨fun s t i hinv hhung hi hexec => ?_, fun s => ⟨s.restart, rfl, rfl, rfl, rfl, rfl⟩⟩
  obtain ⟨hw, hctx, hbus⟩ := (exec_effect hexec).keepsHung hinv hhung hi
  exact ⟨hw, hctx, hbus⟩

end Sys2Proof.Machine

namespace Sys2Proof

open Machine (decodeCommandByte_reservedCode decodeCommandByte_ext)

/-! ### Event words (30_encoding.md R91) -/

/-- The two bytes of an event word give the word back, under any marker set and protocol state. -/
theorem decode_eventRequest (marker : List Nibble) (st : ProtoState) (w : EventWord) :
    decode marker st (eventRequest w) = .ok (decodeEventWord w) := by
  have hsmall : ((w.extractLsb' 8 3).setWidth 8).toNat < 8 := by
    have hlt := (w.extractLsb' 8 3).isLt
    rw [BitVec.toNat_setWidth]
    omega
  have hword : ((w.extractLsb' 8 3).setWidth 8).setWidth 3 ++ eventData w = w := by
    rw [BitVec.setWidth_setWidth_of_le _ (by decide), BitVec.setWidth_eq]
    exact (BitVec.extractLsb'_append_extractLsb'_eq_extractLsb' (Nat.zero_add 8).symm).trans BitVec.extractLsb'_eq_self
  show (if _ then _ else _) = _
  rw [if_pos hsmall, hword]

theorem eventKind_append (k : BitVec 2) (z : BitVec 9) : eventKind (k ++ z) = k := BitVec.extractLsb'_append_eq_left

section KindAndDir

variable (h : BitVec 3) (b : Byte)

theorem eventKind_append_data : eventKind (h ++ b) = h.extractLsb' 1 2 := BitVec.extractLsb'_append_eq_of_le (by decide)

theorem eventDir_append_data : eventDir (h ++ b) = h.getLsbD 0 := BitVec.getLsbD_append

theorem eventData_append_data : eventData (h ++ b) = b := BitVec.extractLsb'_append_eq_right

end KindAndDir

/-- Settles O3: the two bytes give the word back, and the word is read by its fields. -/
theorem eventWordIsReadByItsFields : Obligations.EventWordIsReadByItsFields := by
  intro marker st z x b
  simp only [decode_eventRequest, decodeEventWord, eventKind_append, eventKind_append_data, eventDir_append_data,
    eventData_append_data]
  exact ⟨rfl, rfl, rfl, rfl, rfl, rfl⟩

/-! ### Bytes and labels (30_encoding.md R93, R96, R99) -/

theorem hiNibble_joinNibbles (h l : Nibble) : hiNibble (joinNibbles h l) = h := BitVec.extractLsb'_append_eq_left

theorem loNibble_joinNibbles (h l : Nibble) : loNibble (joinNibbles h l) = l := BitVec.extractLsb'_append_eq_right

theorem hiNibble_zext8 (l : Nibble) : hiNibble (zext8 l) = 0 := by
  revert l
  decide

theorem loNibble_zext8 (l : Nibble) : loNibble (zext8 l) = l := by
  revert l
  decide

/-- A request of a step label is read as that label with its operands. -/
theorem decode_labelRequest (marker : List Nibble) (st : ProtoState) (l : Nibble) (ops : List Byte) :
    decode marker st (labelRequest l ops) = decodeLabel l ops := by
  show (if hiNibble (zext8 l) = 0 then decodeLabel (loNibble (zext8 l)) ops else .error .strayBits) = _
  rw [if_pos (hiNibble_zext8 l), loNibble_zext8]

theorem decodeAddressByte_marked {marker : List Nibble} {m : Nibble} (h : marker.contains m = true) (o : Nibble) :
    decodeAddressByte marker (joinNibbles m o) = .addrCtrl m o := by
  unfold decodeAddressByte
  rw [hiNibble_joinNibbles, loNibble_joinNibbles, if_pos h]

theorem decodeAddressByte_unmarked {marker : List Nibble} {b : Byte} (h : marker.contains (hiNibble b) = false) :
    decodeAddressByte marker b = .addrPage b := by
  unfold decodeAddressByte
  rw [h]
  rfl

/-- Settles O1: each format's reader gives back what the encoder wrote; the marker set tells the address forms apart, the state the data rows. -/
theorem decodeInvertsEncode : Obligations.DecodeInvertsEncode := by
  intro marker st i hwf hfits
  cases i with
  | evStop | evAddrW | evAddrR | evDataR | evNone => exact decode_eventRequest marker st _
  | evDataW b =>
    obtain ⟨_, _, _, hword, _⟩ := eventWordIsReadByItsFields marker st 0 0 b
    exact hword
  | addrCtrl m o => exact congrArg Except.ok (decodeAddressByte_marked hfits o)
  | addrPage b => exact congrArg Except.ok (decodeAddressByte_unmarked (by simpa [Instr.fits] using hfits))
  | dataFirst _ | dataNext _ | dataRo _ | dataErr _ =>
    obtain rfl := of_decide_eq_true hfits
    rfl
  | cmdNone | cmdSetPage | cmdSetDevAddr | cmdReset => rfl
  | cmdReserved low => exact congrArg Except.ok (decodeCommandByte_reservedCode low)
  | cmdExt code => exact congrArg Except.ok (decodeCommandByte_ext (of_decide_eq_true hwf))
  | postNoField | postNone | postAccept | postReject | wPickup | wMark | wExec | wReport | reset | drvWrite _ _ _ | drvRead _ _
  | drvTxCmd _ => exact decode_labelRequest marker st _ _
  | drvStatusUpdate code =>
    show decode marker st (labelRequest 11 [zext8 code]) = _
    rw [decode_labelRequest]
    show (if hiNibble (zext8 code) = 0 then Except.ok (Instr.drvStatusUpdate (loNibble (zext8 code))) else _) = _
    rw [if_pos (hiNibble_zext8 code), loNibble_zext8]

/-! ### What a decoder can answer -/

/-- The instruction is well formed and the one its byte stands for. -/
def Instr.Proper (marker : List Nibble) (st : ProtoState) (i : Instr) : Prop := i.wf = true ∧ i.fits marker st = true

section Proper

variable {marker : List Nibble} {st : ProtoState} {i : Instr}

theorem decodeEventWord_proper (w : EventWord) : (decodeEventWord w).Proper marker st := by
  unfold decodeEventWord
  split
  · exact ⟨rfl, rfl⟩
  · split <;> exact ⟨rfl, rfl⟩
  · split <;> exact ⟨rfl, rfl⟩
  · exact ⟨rfl, rfl⟩

theorem decodeAddressByte_proper (hm : ∀ m ∈ marker, m.getLsbD 3 = true) (b : Byte) :
    (decodeAddressByte marker b).Proper marker st := by
  unfold decodeAddressByte
  split
  · next h => exact ⟨hm _ (by simpa using h), h⟩
  · next h => exact ⟨rfl, by simpa [Instr.fits] using h⟩

theorem decodeDataByte_proper {b : Byte} (h : decodeDataByte st b = .ok i) : i.Proper marker st := by
  cases st with
  | readWriteFirstByte | readWrite | readOnly | error =>
    cases h
    exact ⟨rfl, rfl⟩
  | idle | addressOrRead | ioFinish => cases h

theorem decodeCommandByte_proper (c : Byte) : (decodeCommandByte c).Proper marker st := by
  by_cases h : firstExtCode ≤ c.toNat
  · rw [decodeCommandByte_ext h]
    exact ⟨decide_eq_true h, rfl⟩
  · unfold decodeCommandByte
    rw [if_pos (Nat.lt_of_not_le h)]
    split_ifs <;> exact ⟨rfl, rfl⟩

theorem decodeLabel_proper {l : Nibble} {ops : List Byte} (h : decodeLabel l ops = .ok i) : i.Proper marker st := by
  unfold decodeLabel at h
  iterate 3
    split at h
    · cases h
  split at h
  case h_12 =>
    split at h <;> cases h
    exact ⟨rfl, rfl⟩
  all_goals
    cases h
    exact ⟨rfl, rfl⟩

theorem eventOfBytes_proper {bytes : List Byte} (h : eventOfBytes bytes = .ok i) : i.Proper marker st := by
  unfold eventOfBytes at h
  split at h
  case h_3 =>
    split at h <;> cases h
    exact decodeEventWord_proper _
  all_goals cases h

theorem labelOfBytes_proper {bytes : List Byte} (h : labelOfBytes bytes = .ok i) : i.Proper marker st := by
  unfold labelOfBytes at h
  split at h
  · cases h
  · split at h
    · exact decodeLabel_proper h
    · cases h

end Proper

/-- A one-byte format's reader answers what its byte's reader answers. -/
theorem oneByte_bind {α : Type} {bytes : List Byte} {f : Byte → Except DecodeError α} {x : α}
    (h : (oneByte bytes).bind f = .ok x) : ∃ b, f b = .ok x := by
  unfold oneByte at h
  split at h
  · cases h
  · exact ⟨_, h⟩
  · cases h

/-- Settles O2, format by format. -/
theorem decodedInstructionIsWellFormed : Obligations.DecodedInstructionIsWellFormed := by
  rintro marker st ⟨fmt, bytes⟩ i hm h
  cases fmt with
  | eventWord => exact eventOfBytes_proper h
  | addressByte =>
    obtain ⟨b, hb⟩ := oneByte_bind (f := fun b => .ok (decodeAddressByte marker b)) h
    cases hb
    exact decodeAddressByte_proper hm b
  | dataByte =>
    obtain ⟨b, hb⟩ := oneByte_bind h
    exact decodeDataByte_proper hb
  | commandByte =>
    obtain ⟨b, hb⟩ := oneByte_bind (f := fun b => .ok (decodeCommandByte b)) h
    cases hb
    exact decodeCommandByte_proper b
  | stepLabel => exact labelOfBytes_proper h

/-- The two low bits of a reserved code. -/
theorem extractLsb'_eq_ofNat_sub {c : Byte} (h : 4 ≤ c.toNat) : c.extractLsb' 0 2 = BitVec.ofNat 2 (c.toNat - 4) := by
  apply BitVec.eq_of_toNat_eq
  simp only [BitVec.extractLsb'_toNat, BitVec.toNat_ofNat, Nat.shiftRight_zero]
  omega

/-- Settles O4: the decoder's tests on the byte are tests on its number. -/
theorem commandCodeMap : Obligations.CommandCodeMap := by
  intro marker st c
  have hcode : ∀ x : Byte, c = x ↔ c.toNat = x.toNat := fun x => BitVec.toNat_inj.symm
  refine congrArg Except.ok ?_
  unfold decodeCommandByte
  simp only [hcode]
  show (if c.toNat = 0 then _ else if c.toNat = 1 then _ else if c.toNat = 2 then _ else if c.toNat = 3 then _ else
    if c.toNat < 8 then _ else _) = _
  split_ifs with h0 h1 h2 h3 h8
  · rfl
  · rfl
  · rfl
  · rfl
  · rw [extractLsb'_eq_ofNat_sub (by omega)]
  · rfl

/-- Settles O5: each word decodes by evaluation. -/
theorem specWordsDecode : Obligations.SpecWordsDecode := by
  unfold Obligations.SpecWordsDecode
  decide

end Sys2Proof

namespace Sys2Proof.Machine

/-! ### One step (log entries 4 and 5) -/

/-- Settles O6: the fetch takes the oldest request off the queue. -/
theorem stepRunsDecodedRequest : Obligations.StepRunsDecodedRequest := by
  intro s r rest i hq hd
  have hfetch : s.fetch = .ok (some i, s.withQueue rest) := by
    simp [State.fetch, hq, fetchRequest, hd]
  rw [step, hfetch]
  rfl

/-- Settles O7, turn by turn. -/
theorem emptyQueueTakesAFreeTurn : Obligations.EmptyQueueTakesAFreeTurn := by
  intro s hq
  have hfetch : s.fetch = fetchTurn (Config.turn s.turns) (s.withTurns (s.turns + 1)) := by
    simp [State.fetch, hq]
  rw [step, hfetch]
  cases Config.turn s.turns with
  | worker => rfl
  | deliver r =>
    cases hd : decode s.cfg.marker s.sess.state r with
    | ok i =>
      simp only [fetchTurn, fetchRequest, State.withTurns_cfg, State.withTurns_sess, hd]
      rfl
    | error e => simp only [fetchTurn, fetchRequest, State.withTurns_cfg, State.withTurns_sess, hd]
  | nobody => rfl

end Sys2Proof.Machine

namespace Sys2Proof

/-! ### The reset contents (10_state.md R39, R45) -/

theorem lowByte_eq_setWidth (v : BitVec 16) : lowByte v = v.setWidth 8 := by
  apply BitVec.eq_of_toNat_eq
  simp [lowByte]

theorem highByte_eq_setWidth (v : BitVec 16) : highByte v = (v >>> 8).setWidth 8 := by
  apply BitVec.eq_of_toNat_eq
  simp [highByte]

/-- A byte is odd exactly where its bit 0 is set. -/
theorem getLsbD_zero_eq (v : Byte) : v.getLsbD 0 = decide (v.toNat % 2 = 1) := Nat.testBit_zero v.toNat

/-- Settles O9: the tests of `loadAddr` on the byte are tests on its number. -/
theorem loadAddrRule : Obligations.LoadAddrRule := by
  intro c v
  unfold Config.loadAddr
  rw [getLsbD_zero_eq]
  refine ⟨fun heven => ?_, fun h255 => ?_, fun hodd h255 => ?_⟩
  · rw [if_pos (by simp [heven])]
  · obtain rfl : v = 0xFF := BitVec.eq_of_toNat_eq h255
    rw [if_neg (by decide)]
    simp
  · have hne : v ≠ 0xFF := by
      rintro rfl
      exact h255 rfl
    rw [if_neg (by simp [hodd]), beq_false_of_ne hne, Bool.and_false]
    rfl

/-! ### The board's configuration is valid (00_scope.md R5 to R10; log entry 2) -/

namespace Config

theorem board_drivers_getElem? (j : Nat) :
    board.drivers[j]? =
      if j < boardDriverCount.val then
        some { init := (List.range (boardDriverLen j).toNat).map (boardDriverInit j), txLoc := boardTxLoc j }
      else none := by
  by_cases hj : j < boardDriverCount.val <;> simp [board, hj]

theorem board_len (p : Byte) : board.len p = boardLen p := by
  unfold len initOf boardLen
  rcases p.toNat with _ | _ | j
  · rfl
  · rfl
  · show (((board.drivers[j]?).map DriverPage.init).getD []).length =
      if j < boardDriverCount.val then (boardDriverLen j).toNat else 0
    rw [board_drivers_getElem?]
    split
    · simp
    · rfl

theorem boardTxLoc_ok (j : Nat) : board.TxLocOk (boardTxLoc j) := by
  intro x hx
  unfold boardTxLoc at hx
  split at hx
  · split at hx
    · next hlen =>
      cases hx
      rw [board_len]
      exact hlen
    · cases hx
  · cases hx

theorem board_driver {d : DriverPage} (h : d ∈ board.drivers) : d.init.length ≤ 255 ∧ board.TxLocOk d.txLoc := by
  obtain ⟨j, _, rfl⟩ := List.mem_map.mp h
  refine ⟨?_, boardTxLoc_ok j⟩
  have hlen := (boardDriverLen j).isLt
  simp only [List.length_map, List.length_range]
  omega

theorem board_valid : board.Valid := by
  have hcount : board.pageCount = boardDriverCount.val + 2 := by
    simp [pageCount, board, firstDriverPage]
  have hmax := boardDriverCount.isLt
  refine ⟨by omega, by decide, fun d hd => (board_driver hd).1, by decide, by decide, ?_, fun d hd => (board_driver hd).2, ?_, by decide⟩
  · intro x hx
    cases hx
  · show 0 < board.pageCount
    omega

end Config

end Sys2Proof

namespace Sys2Proof.Machine

/-- After a reset every byte holds its reset contents. -/
theorem restart_byte (s : State) (p i : Byte) : s.restart.byte p i = ((s.cfg.initOf p.toNat)[i.toNat]?).getD 0 :=
  initByte_locAddr s.cfg p i

/-- Settles O8: the registers as `restart_eq` says, the bytes as `init(p)` has them. -/
theorem resetSetsEveryElement : Obligations.ResetSetsEveryElement := by
  intro s
  refine ⟨s.restart, rfl, rfl, fun i hi => ?_, ?_, ?_, ?_, ?_, ?_, fun j d p i v hd hp hv => ?_⟩
  · rw [restart_byte]
    show ((List.replicate 7 (0 : Byte))[i.toNat]?).getD 0 = 0
    rw [List.getElem?_replicate_of_lt hi]
    rfl
  · exact lowByte_eq_setWidth _
  · exact highByte_eq_setWidth _
  · exact lowByte_eq_setWidth _
  · exact highByte_eq_setWidth _
  · rfl
  · rw [restart_byte, hp]
    simp [Config.initOf, hd, hv]

/-- The power-on state of a valid configuration meets the invariant. -/
theorem inv_powerOn {c : Config} (h : c.Valid) (nvm : Byte) : (State.powerOn c nvm).Inv := by
  have hpages : 0 < c.pageCount := Nat.lt_of_lt_of_le (by decide) (two_le_pageCount c)
  obtain ⟨_, _, _, _, _, _, _, hreset, _⟩ := id h
  have hcur : (State.powerOn c nvm).CursorOk := ⟨hpages, by show 0 < c.len ctrlPage; simp⟩
  have hmem : (State.powerOn c nvm).MemOk := ⟨rfl, by rintro _ ⟨⟩⟩
  exact ⟨h, hreset, hcur, hpages, hmem, ⟨by rintro (⟨⟨⟩⟩ | ⟨⟨⟩⟩), by rintro ⟨⟩⟩, Nat.zero_le _, by rintro ⟨⟩⟩

/-- Settles O10: the board's configuration is valid, whatever its free values are. -/
theorem resetMeetsInvariant : Obligations.ResetMeetsInvariant :=
  ⟨inv_powerOn Config.board_valid _, fun _ nvm hc => inv_powerOn hc nvm⟩

/-! ### The end of a transaction (40_bus_state_machine.md R121 to R124) -/

theorem execEvStop_unopened {s : State} (h : s.sess.state.isOpen = false) : execEvStop s = .next s.quiet := if_neg (by simp [h])

/-- A transaction that stored nothing ends in Idle. -/
theorem execEvStop_quietly {s : State} (h : s.sess.state.isOpen = true) (hst : s.sess.state ≠ .readWrite) :
    execEvStop s = .next s.quiet.endQuietly := (if_pos h).trans (if_neg hst)

/-- Settles O11: with no transaction open the address phase is its answer alone. -/
theorem addressPhaseWithoutTransaction : Obligations.AddressPhaseWithoutTransaction := by
  intro s i hi
  rw [exec_addr hi]
  refine ⟨fun hst => ?_, fun hst => addressPhase_ioFinish hst⟩
  rw [addressPhase_eq, execEvStop_unopened (by rw [hst]; rfl)]
  exact if_neg (by simp [hst])

/-- Settles O12: a restart is `addressPhase_eq` where the STOP has an answer. -/
theorem restartIsStopThenAddressPhase : Obligations.RestartIsStopThenAddressPhase := by
  intro s i hi hinv _ _
  obtain ⟨u, hu⟩ := execEvStop_answers hinv
  refine ⟨u, hu, ?_⟩
  rw [exec_addr hi, addressPhase_eq, hu]
  exact (apply_ite Host.Outcome.next ..).symm

/-- Settles O13: none of the states named has stored a byte. -/
theorem stopWithoutStoredByte : Obligations.StopWithoutStoredByte := by
  intro s
  refine ⟨fun hst => ?_, fun hst => ?_⟩
  · rcases hst with hst | hst | hst | hst <;> exact execEvStop_quietly (by rw [hst]; rfl) (by simp [hst])
  · rcases hst with hst | hst <;> exact execEvStop_unopened (by rw [hst]; rfl)

theorem postOutcome_none {s : State} (h : s.cfg.cmdFieldLoc s.sess.activePage = none) : s.postOutcome = .noField := by
  simp [State.postOutcome, h]

section Outcome

variable {s : State} {l : Loc} (hl : s.cfg.cmdFieldLoc s.sess.activePage = some l)

include hl

theorem postOutcome_some : s.postOutcome = s.outcomeOf (s.byte l.page l.off) := by
  simp only [State.postOutcome, hl]

theorem postOutcome_of_zero (hcode : s.byte l.page l.off = 0) : s.postOutcome = .none := by
  rw [postOutcome_some hl, State.outcomeOf, if_pos hcode]

theorem postOutcome_of_idle (hcode : s.byte l.page l.off ≠ 0) (hidle : s.ctx.command = 0) : s.postOutcome = .accept := by
  rw [postOutcome_some hl, State.outcomeOf, if_neg hcode, if_neg (not_not.mpr hidle)]

theorem postOutcome_of_busy (hcode : s.byte l.page l.off ≠ 0) (hbusy : s.ctx.command ≠ 0) : s.postOutcome = .reject := by
  rw [postOutcome_some hl, State.outcomeOf, if_neg hcode, if_pos hbusy]

end Outcome

/-- Settles O14: the STOP has an answer, and the row of the outcome that holds answers the same. -/
theorem stopAfterStoredBytePosts : Obligations.StopAfterStoredBytePosts := by
  intro s hinv hst
  obtain ⟨t, ht⟩ := execEvStop_answers hinv
  have hrow : ∀ o, s.postOutcome = o → postAs o s = .next t := fun o ho => (postAs_of_outcome hst ho).trans ht
  refine ⟨t, ht, ?_⟩
  cases hl : s.cfg.cmdFieldLoc s.sess.activePage with
  | none => exact hrow _ (postOutcome_none hl)
  | some l =>
    simp only
    split_ifs with hcode hidle
    · exact hrow .none (postOutcome_of_zero hl hcode)
    · exact hrow .accept (postOutcome_of_idle hl hcode hidle)
    · exact hrow .reject (postOutcome_of_busy hl hcode hidle)

/-- Settles O15: only page 0 is the control page. -/
theorem commandFieldLocation : Obligations.CommandFieldLocation := by
  refine fun c => ⟨rfl, rfl, fun p j hp => ?_⟩
  have hne : p ≠ ctrlPage := by
    rintro rfl
    cases hp
  rw [Config.cmdFieldLoc, if_neg hne, Config.txCmdLoc]
  simp [hp]

/-- Settles O16: nothing is read or cleared where the page has no field. -/
theorem postWithoutField : Obligations.PostWithoutField := by
  intro s hst hpage hl
  show postAs .noField s = _
  rw [postAs_of_outcome hst (postOutcome_none hl), execEvStop_of_readWrite hst,
    postFromActivePage_eq (s := s.quiet) hpage (by simp [hl]), quiet_cfg, quiet_sess, hl]
  rfl

/-! ### The posting outcomes (41_command_posting_status.md R161 to R164) -/

/-- Writing the byte that stands there changes nothing. -/
theorem setByte_same {s : State} (h : Memory.wf s.cfg.initByte s.mem = true) {p i v : Byte} (hv : s.byte p i = v) :
    s.setByte p i v = s := by
  have hmem : (s.setByte p i v).mem = s.mem := by
    refine Memory.ext_of_get (setByte_wf h) h fun a => ?_
    refine Memory.get_set.trans ?_
    split
    · next ha => exact hv.symm.trans (congrArg (Memory.get s.cfg.initByte s.mem) ha.symm)
    · rfl
  show s.withMem _ = s
  rw [show Memory.set _ _ _ _ = s.mem from hmem]
  rfl

/-- The posting field of an invariant state is a location. -/
theorem postsFrom_of_inv {s : State} {l : Loc} (hinv : s.Inv) (hst : s.sess.state = .readWrite)
    (hl : s.cfg.cmdFieldLoc s.sess.activePage = some l) : s.PostsFrom l := by
  obtain ⟨hvalid, _⟩ := hinv
  exact ⟨hst, hl, cmdFieldLoc_ok hvalid hl⟩

/-- A transaction that stored a byte ends by dealing with the code of its page's field. -/
theorem execEvStop_posts {s : State} {l : Loc} (hpage : s.sess.activePage.toNat < s.cfg.pageCount) (h : s.PostsFrom l) :
    execEvStop s = .next ((s.quiet.takeCommand l).postCode (s.byte l.page l.off)) := by
  obtain ⟨hst, hl, hloc⟩ := h
  have hin : ∀ x, s.cfg.cmdFieldLoc s.sess.activePage = some x → x.off.toNat < s.cfg.len x.page := by
    rintro x hx
    cases hl.symm.trans hx
    exact hloc
  rw [execEvStop_of_readWrite hst, postFromActivePage_eq (s := s.quiet) hpage hin, quiet_cfg, quiet_sess, hl]
  rfl

/-- A STOP that posts with no command in flight is the acceptance. -/
theorem execEvStop_accepts {s : State} {l : Loc} (hpage : s.sess.activePage.toNat < s.cfg.pageCount) (h : s.PostsFrom l)
    (hcode : s.byte l.page l.off ≠ 0) (hidle : s.ctx.command = 0) :
    execEvStop s = .next ((s.quiet.takeCommand l).acceptPost (s.byte l.page l.off)) := by
  rw [execEvStop_posts hpage h]
  rcases postCode_cases (s.quiet.takeCommand l) (s.byte l.page l.off) with ⟨h0, _⟩ | ⟨_, _, e⟩ | ⟨_, hbusy, _⟩
  · exact absurd h0 hcode
  · rw [e]
  · exact absurd hidle hbusy

/-- Settles O17: a field that holds 0 is cleared to what it holds. -/
theorem postOfZero : Obligations.PostOfZero := by
  intro s l i hi hinv hst hl hcode
  have hrow : exec i s = postAs .none s := by rcases hi with rfl | rfl <;> rfl
  rw [hrow, postAs_of_outcome hst (postOutcome_of_zero hl hcode), execEvStop_posts hinv.cursorOk.1 (postsFrom_of_inv hinv hst hl), hcode]
  have hclear : s.quiet.setByte l.page l.off 0 = s.quiet := setByte_same (s := s.quiet) hinv.memOk.1 hcode
  show Host.Outcome.next (((s.quiet.setByte l.page l.off 0).withSess { s.sess with command := s.byte l.page l.off }).setProto .idle) = _
  rw [hclear, hcode]
  rfl

/-- The status byte once the field is cleared: 0 if it was the field. -/
theorem takeCommand_status (s : State) (l : Loc) :
    (s.quiet.takeCommand l).status = if l = ⟨0, 0⟩ then 0 else s.byte 0 0 := by
  have hloc : (ctrlPage = l.page ∧ offStatus = l.off) ↔ l = ⟨0, 0⟩ := by
    constructor
    · rintro ⟨hp, hi⟩
      rw [← show Loc.mk l.page l.off = l from rfl, ← hp, ← hi]
      rfl
    · rintro rfl
      exact ⟨rfl, rfl⟩
  unfold State.status
  simp only [takeCommand_byte, hloc]
  rfl

/-- Settles O18: the row is the STOP, and the accepted post is as `acceptPost_eq` and `acceptPost_byte` say. -/
theorem acceptedPost : Obligations.AcceptedPost := by
  intro s l hinv hst hl hcode hidle
  have hexec : exec .postAccept s = .next ((s.quiet.takeCommand l).acceptPost (s.byte l.page l.off)) :=
    (postAs_of_outcome hst (postOutcome_of_idle hl hcode hidle)).trans
      (execEvStop_accepts hinv.cursorOk.1 (postsFrom_of_inv hinv hst hl) hcode hidle)
  refine ⟨_, hexec, rfl, fun p i => ?_⟩
  rw [acceptPost_byte, takeCommand_status, takeCommand_byte]
  rfl

/-- Settles O19: the row is the STOP that `execEvStop_rejects` describes; a valid configuration has BUSERR among its reject flags. -/
theorem rejectedPost : Obligations.RejectedPost := by
  intro s l hinv hst hl hcode hbusy
  have hexec : exec .postReject s = .next (s.quiet.takeCommand l).rejectPost :=
    (postAs_of_outcome hst (postOutcome_of_busy hl hcode hbusy)).trans (execEvStop_rejects hinv hst hl hcode hbusy)
  obtain ⟨⟨_, _, _, _, _, _, _, _, hflag⟩, _⟩ := hinv
  refine ⟨_, hexec, rfl, fun p i => ?_, ?_⟩
  · rw [rejectPost_byte, takeCommand_status, takeCommand_byte]
    rfl
  · have hstatus : (s.quiet.takeCommand l).rejectPost.byte 0 0 = rejectStatus s.cfg.rejectFlags (s.quiet.takeCommand l).status :=
      rejectPost_byte ..
    rw [hstatus]
    exact statusBusErr_rejectStatus hflag _

end Sys2Proof.Machine

namespace Sys2Proof.Machine

/-! ### Address bytes (20_memory.md R62 to R64) -/

theorem ctrlPage_lt_pageCount (c : Config) : ctrlPage.toNat < c.pageCount := Nat.lt_of_lt_of_le (by decide) (two_le_pageCount c)

/-- An address byte of a registered page selects the location or enters Error. -/
theorem selectLocation_eq {s : State} {ap : Byte} (hp : ap.toNat < s.cfg.pageCount) (a : Byte) :
    selectLocation ap a s = .next (if a.toNat < s.cfg.len ap then s.selected ap a else s.quiet.enterError) := by
  rw [selectLocation, if_neg (by omega)]
  by_cases ha : a.toNat < s.cfg.len ap
  · rw [if_neg (by omega), if_pos ha]
    rfl
  · rw [if_pos (by omega), if_neg ha]

theorem translate_marked {c : Config} {m : Nibble} (hm : m ∈ c.marker) (page : Byte) (o : Nibble) :
    c.translate page (m ++ o) = (ctrlPage, zext8 o) := by
  have hhi : hiNibble (m ++ o) = m := hiNibble_joinNibbles m o
  have hlo : loNibble (m ++ o) = o := loNibble_joinNibbles m o
  rw [Config.translate, hhi, hlo, if_pos (by simpa [Config.isMarker] using hm)]

theorem translate_unmarked {c : Config} {b : Byte} (h : c.isMarker (hiNibble b) = false) (page : Byte) :
    c.translate page b = (page, b) := by
  rw [Config.translate, h]
  rfl

theorem execEvDataW_addressOrRead {s : State} (h : s.sess.state = .addressOrRead) (b : Byte) :
    exec (.evDataW b) s = selectLocation (s.cfg.translate s.sess.page b).1 (s.cfg.translate s.sess.page b).2 s := by
  simp only [exec, execEvDataW, h]
  rfl

/-- Settles O23: the row and the bus event both select in the control page, which has seven bytes. -/
theorem markedAddressByte : Obligations.MarkedAddressByte := by
  intro s m o i hi hst hm
  have hexec : exec i s = selectLocation ctrlPage (zext8 o) s := by
    rcases hi with rfl | rfl
    · exact if_pos ⟨hst, by simpa [Config.isMarker] using hm⟩
    · rw [execEvDataW_addressOrRead hst, translate_marked hm]
  have hoff : (zext8 o).toNat = o.toNat := BitVec.toNat_setWidth_of_le (by decide)
  have hcursor : zext8 o = BitVec.ofNat 8 o.toNat := BitVec.eq_of_toNat_eq (by simp [hoff]; omega)
  rw [hexec, selectLocation_eq (ctrlPage_lt_pageCount s.cfg), len_ctrlPage, hoff, ← hcursor]
  rfl

/-- No marker is the top nibble of `b`. -/
theorem isMarker_hiNibble_eq_false {c : Config} {b : Byte} (h : ∀ m ∈ c.marker, m.toNat ≠ b.toNat / 16) :
    c.isMarker (hiNibble b) = false := by
  have hhi : (hiNibble b).toNat = b.toNat / 16 := by
    have := b.isLt
    simp only [hiNibble, BitVec.extractLsb'_toNat, Nat.shiftRight_eq_div_pow]
    omega
  have hne : hiNibble b ∉ c.marker := fun hin => h _ hin hhi
  simpa only [Config.isMarker, List.contains_eq_mem, decide_eq_false_iff_not] using hne

/-- Settles O24: the row and the bus event both select in the sticky page. -/
theorem unmarkedAddressByte : Obligations.UnmarkedAddressByte := by
  intro s b i hi hst hm hpage
  have hmark : s.cfg.isMarker (hiNibble b) = false := isMarker_hiNibble_eq_false hm
  have hexec : exec i s = selectLocation s.sess.page b s := by
    rcases hi with rfl | rfl
    · exact if_pos ⟨hst, hmark⟩
    · rw [execEvDataW_addressOrRead hst, translate_unmarked hmark]
  rw [hexec, selectLocation_eq hpage]
  rfl

/-! ### Data bytes (40_bus_state_machine.md R125 to R131) -/

/-- Where reads are served and the cursor is a location, the byte at the cursor is delivered. -/
theorem execEvDataR_eq {s : State} (hst : s.sess.state.servesRead = true) (hcur : s.CursorOk) :
    exec .evDataR s = .next s.delivered := (if_pos hst).trans (atLocation_eq hcur.2)

/-- Settles O20: the read is `State.delivered`. -/
theorem readDeliversByteAtCursor : Obligations.ReadDeliversByteAtCursor :=
  fun _ hst hcur => execEvDataR_eq hst hcur

/-- Settles O21: the states named serve neither event. -/
theorem unsequencedDataEventIsRefused : Obligations.UnsequencedDataEventIsRefused := by
  refine fun s b => ⟨fun hst => ?_, fun hst => if_neg ?_⟩
  · rcases hst with hst | hst <;> simp only [exec, execEvDataW, hst]
  · rcases hst with hst | hst | hst <;> simp [hst, ProtoState.servesRead]

/-- Settles O22: the row has no other path. -/
theorem nonEventIsRefused : Obligations.NonEventIsRefused := fun _ => rfl

theorem exec_storeByte_of_readWriteFirstByte {s : State} {b : Byte} {i : Instr} (hi : i = .dataFirst b ∨ i = .evDataW b)
    (hst : s.sess.state = .readWriteFirstByte) : exec i s = storeByte b s := by
  rcases hi with rfl | rfl
  · exact if_pos hst
  · simp only [exec, execEvDataW, hst]

/-- Settles O25: the byte is stored as `State.stored` says. -/
theorem firstDataByte : Obligations.FirstDataByte := by
  intro s b i hi hst hcur
  have hexec : exec i s = .next (s.stored b) := (exec_storeByte_of_readWriteFirstByte hi hst).trans (storeByte_eq hcur b)
  exact ⟨s.stored b, hexec, stored_eq s b, stored_byte s b⟩

/-- Settles O27: the row and the bus event refuse the byte. -/
theorem readOnlyPageNacksByte : Obligations.ReadOnlyPageNacksByte := by
  intro s b i hi hst
  rcases hi with rfl | rfl
  · exact if_pos hst
  · simp only [exec, execEvDataW, hst]
    rfl

/-- Settles O28: the row and the bus event refuse the byte. -/
theorem errorStateNacksByte : Obligations.ErrorStateNacksByte := by
  intro s b i hi hst
  rcases hi with rfl | rfl
  · exact if_pos hst
  · simp only [exec, execEvDataW, hst]
    rfl

/-! ### NACKs (60_exceptions.md section 1) -/

/-- An address phase is NACKed exactly where it leaves `IoFinish`. -/
theorem addressPhase_response {s t : State} (h : addressPhase s = .next t) :
    (t.out.response = .nack ∧ t.sess.state = .ioFinish) ∨ (t.out.response = .ack ∧ t.sess.state ≠ .ioFinish) := by
  rw [addressPhase_eq] at h
  obtain ⟨u, _, ht⟩ := andThen_next h
  unfold answerAddress at ht
  split at ht
  · next hst =>
    cases ht
    exact .inl ⟨rfl, hst⟩
  · cases ht
    exact .inr ⟨rfl, by rintro ⟨⟩⟩

/-- A written byte met Error, or a page that was read-only already, by the state it leaves. -/
def State.RefusedByte (s t : State) : Prop := t.sess.state = .error ∨ t.sess.state = .readOnly ∧ s.sess.state = .readOnly

/-- A written byte is NACKed exactly where it is refused. -/
theorem execEvDataW_response {s t : State} {b : Byte} (h : execEvDataW b s = .next t) :
    (t.out.response = .nack ∧ s.RefusedByte t) ∨ (t.out.response = .ack ∧ ¬ s.RefusedByte t) := by
  have hstored : storeByte b s = .next t → t.out.response = .ack ∧ ¬ s.RefusedByte t := by
    intro hstore
    obtain ⟨_, rfl⟩ := storeByte_next hstore
    exact ⟨rfl, by rintro (⟨⟨⟩⟩ | ⟨⟨⟩, _⟩)⟩
  unfold execEvDataW at h
  split at h
  case h_1 hst =>
    rcases selectLocation_next h with rfl | ⟨_, rfl⟩
    · exact .inl ⟨rfl, .inl rfl⟩
    · refine .inr ⟨rfl, ?_⟩
      rw [State.RefusedByte, selected_eq, hst]
      simp only
      split <;> simp
  case h_2 | h_3 => exact .inr (hstored h)
  case h_4 hst =>
    cases h
    exact .inl ⟨rfl, .inr ⟨hst, hst⟩⟩
  case h_5 hst =>
    cases h
    exact .inl ⟨rfl, .inl hst⟩
  case h_6 | h_7 => cases h

/-- Settles O31: an address phase is NACKed by the state it leaves, a written byte where it is refused. -/
theorem nackCauses : Obligations.NackCauses := by
  intro s t _ i hi h
  have haddr : i = .evAddrW ∨ i = .evAddrR → (t.out.response = .nack ∧ t.sess.state = .ioFinish) ∨
      (t.out.response = .ack ∧ t.sess.state ≠ .ioFinish) := fun hi => addressPhase_response ((exec_addr hi s).symm.trans h)
  rcases hi with rfl | rfl | ⟨b, rfl⟩
  · rcases haddr (.inl rfl) with ⟨hr, hst⟩ | ⟨hr, hst⟩ <;> simp [hr, hst]
  · rcases haddr (.inr rfl) with ⟨hr, hst⟩ | ⟨hr, hst⟩ <;> simp [hr, hst]
  · rcases execEvDataW_response h with ⟨hr, href⟩ | ⟨hr, href⟩ <;>
      · unfold State.RefusedByte at href
        simp [hr, href]

end Sys2Proof.Machine

namespace Sys2Proof.Machine

/-! ### Streaming (20_memory.md R65) -/

/-- The offset `k` bytes past the cursor, modulo the active page's length. -/
def State.wrapped (s : State) (k : Nat) : Nat := (s.sess.offset.toNat + k) % s.cfg.len s.sess.activePage

/-- The cursor is its own offset 0 bytes further. -/
theorem wrapped_zero {s : State} (h : s.CursorOk) : s.wrapped 0 = s.sess.offset.toNat := Nat.mod_eq_of_lt h.2

/-- A step that advances leaves every offset one byte nearer. -/
theorem wrapped_succ {s t : State} (h : s.Inv) (hsess : t.sess.offset = s.advance.sess.offset)
    (hpage : t.sess.activePage = s.sess.activePage) (hcfg : t.cfg = s.cfg) (k : Nat) : t.wrapped k = s.wrapped (k + 1) := by
  obtain ⟨hvalid, _, ⟨_, hoff⟩, _⟩ := h
  rw [State.wrapped, hsess, hpage, hcfg, advance_offset hoff (len_le hvalid _), Nat.mod_add_mod, Nat.add_assoc, Nat.add_comm 1]
  rfl

theorem execAll_cons_next {i : Instr} {is : List Instr} {s u : State} (h : exec i s = .next u) :
    execAll (i :: is) s = execAll is u := by
  show andThen (exec i s) (execAll is) = _
  rw [h]
  rfl

/-- What reading `k + 1` bytes leaves of `s`. -/
structure State.ReadsTo (s : State) (k : Nat) (t : State) : Prop where
  offset : t.sess.offset.toNat = s.wrapped (k + 1)
  frame : t =
    { s with
      sess := { s.sess with offset := t.sess.offset }
      out := { response := .data (s.byte s.sess.activePage (BitVec.ofNat 8 (s.wrapped k))) } }

theorem delivered_readsTo {s : State} (h : s.Inv) : s.ReadsTo 0 s.delivered where
  offset := by
    obtain ⟨hvalid, _, ⟨_, hoff⟩, _⟩ := h
    exact advance_offset hoff (len_le hvalid _)
  frame := by
    rw [wrapped_zero h.cursorOk, BitVec.ofNat_toNat, BitVec.setWidth_eq]
    rfl

theorem execAll_reads {s : State} (h : s.Inv) (hst : s.sess.state.servesRead = true) (k : Nat) :
    ∃ t, execAll (List.replicate (k + 1) .evDataR) s = .next t ∧ s.ReadsTo k t := by
  have hread : exec .evDataR s = .next s.delivered := execEvDataR_eq hst h.cursorOk
  induction k generalizing s with
  | zero => exact ⟨s.delivered, execAll_cons_next hread, delivered_readsTo h⟩
  | succ k ih =>
    have hinv : s.delivered.Inv := (exec_effect hread).inv h
    obtain ⟨t, hexec, hoff, hframe⟩ := ih hinv hst (execEvDataR_eq hst hinv.cursorOk)
    have hwrap : ∀ n, s.delivered.wrapped n = s.wrapped (n + 1) := wrapped_succ h rfl rfl rfl
    rw [hwrap] at hoff hframe
    exact ⟨t, (execAll_cons_next hread).trans hexec, hoff, hframe⟩

/-- Settles O29, by induction on the number of reads. -/
theorem streamingReadWraps : Obligations.StreamingReadWraps := by
  intro s k h hst
  obtain ⟨t, hexec, hoff, hframe⟩ := execAll_reads h hst k
  exact ⟨t, hexec, hoff, hframe⟩

/-- What writing the bytes `bs` leaves of `s`. -/
structure State.WritesTo (s : State) (bs : List Byte) (t : State) : Prop where
  offset : t.sess.offset.toNat = s.wrapped bs.length
  frame : t =
    { s with
      sess := { s.sess with state := .readWrite, offset := t.sess.offset }
      mem := t.mem
      out := { response := .ack } }
  last : ∀ j v, bs[j]? = some v → (∀ k, j < k → k < bs.length → s.wrapped k ≠ s.wrapped j) →
    t.byte s.sess.activePage (BitVec.ofNat 8 (s.wrapped j)) = v
  others : ∀ p i : Byte, (p ≠ s.sess.activePage ∨ ∀ k, k < bs.length → i.toNat ≠ s.wrapped k) → t.byte p i = s.byte p i

theorem stored_writesTo {s : State} (h : s.Inv) (b : Byte) : s.WritesTo [b] (s.stored b) where
  offset := by
    obtain ⟨hvalid, _, ⟨_, hoff⟩, _⟩ := h
    exact advance_offset hoff (len_le hvalid _)
  frame := stored_eq s b
  last := by
    intro j v hj _
    obtain ⟨rfl, rfl⟩ : j = 0 ∧ b = v := by
      cases j with
      | zero => exact ⟨rfl, by simpa using hj⟩
      | succ j => simp at hj
    rw [wrapped_zero h.cursorOk, BitVec.ofNat_toNat, BitVec.setWidth_eq, stored_byte, if_pos ⟨rfl, rfl⟩]
  others := by
    intro p i hpi
    rw [stored_byte, if_neg]
    rintro ⟨rfl, rfl⟩
    rcases hpi with hp | hi
    · exact hp rfl
    · exact hi 0 (by simp) (wrapped_zero h.cursorOk).symm

/-- One byte stored before others: a later byte wins over it, and it wins where no later one falls. -/
theorem State.WritesTo.cons {s t : State} {b : Byte} {bs : List Byte} (h : s.Inv) (ht : (s.stored b).WritesTo bs t) :
    s.WritesTo (b :: bs) t := by
  have hwrap : ∀ n, (s.stored b).wrapped n = s.wrapped (n + 1) := wrapped_succ h rfl rfl rfl
  have hcur : s.wrapped 0 = s.sess.offset.toNat := wrapped_zero h.cursorOk
  obtain ⟨hoff, hframe, hlast, hothers⟩ := ht
  simp only [hwrap] at hoff hlast hothers
  refine ⟨hoff, hframe, fun j v hj hlater => ?_, fun p i hpi => ?_⟩
  · cases j with
    | zero =>
      obtain rfl : b = v := by simpa using hj
      have hcell : BitVec.ofNat 8 (s.wrapped 0) = s.sess.offset := by
        rw [hcur, BitVec.ofNat_toNat, BitVec.setWidth_eq]
      rw [hcell]
      refine (hothers _ _ (.inr fun k hk he => ?_)).trans (by rw [stored_byte, if_pos ⟨rfl, rfl⟩])
      exact hlater (k + 1) (Nat.succ_pos k) (Nat.succ_lt_succ hk) (he.symm.trans hcur.symm)
    | succ j => exact hlast j v hj fun k hjk hk => hlater (k + 1) (Nat.succ_lt_succ hjk) (Nat.succ_lt_succ hk)
  · have hlater : p ≠ s.sess.activePage ∨ ∀ k, k < bs.length → i.toNat ≠ s.wrapped (k + 1) :=
      hpi.imp id fun hi k hk => hi (k + 1) (Nat.succ_lt_succ hk)
    rw [hothers p i hlater, stored_byte, if_neg]
    rintro ⟨rfl, rfl⟩
    rcases hpi with hp | hi
    · exact hp rfl
    · exact hi 0 (Nat.succ_pos _) hcur.symm

theorem execEvDataW_stores {s : State} (h : s.CursorOk) (hst : s.sess.state = .readWriteFirstByte ∨ s.sess.state = .readWrite)
    (b : Byte) : exec (.evDataW b) s = .next (s.stored b) := by
  rw [← storeByte_eq h]
  rcases hst with hst | hst
  · exact exec_storeByte_of_readWriteFirstByte (.inr rfl) hst
  · exact exec_storeByte_of_readWrite (.inr rfl) hst

theorem execAll_writes {s : State} (h : s.Inv) (hst : s.sess.state = .readWriteFirstByte ∨ s.sess.state = .readWrite)
    (b : Byte) (bs : List Byte) : ∃ t, execAll ((b :: bs).map .evDataW) s = .next t ∧ s.WritesTo (b :: bs) t := by
  have hstore : exec (.evDataW b) s = .next (s.stored b) := execEvDataW_stores h.cursorOk hst b
  induction bs generalizing s b with
  | nil => exact ⟨s.stored b, execAll_cons_next hstore, stored_writesTo h b⟩
  | cons b' bs ih =>
    have hinv : (s.stored b).Inv := inv_stored h b hst
    obtain ⟨t, hexec, hwrites⟩ := ih hinv (.inr rfl) b' (execEvDataW_stores hinv.cursorOk (.inr rfl) b')
    exact ⟨t, (execAll_cons_next hstore).trans hexec, hwrites.cons h⟩

/-- Settles O30, by induction on the bytes. -/
theorem streamingWriteWraps : Obligations.StreamingWriteWraps := by
  intro s b bs h hst
  obtain ⟨t, hexec, hoff, hframe, hlast, hothers⟩ := execAll_writes h hst b bs
  exact ⟨t, hexec, hoff, hframe, hlast, hothers⟩

end Sys2Proof.Machine

namespace Sys2Proof.Machine

/-! ### The drivers (42_worker_commands.md R192) -/

/-- Settles O43: DRV.WRITE's guard is the list of its targets. -/
theorem driverWriteStoresOneByte : Obligations.DriverWriteStoresOneByte := by
  refine fun s p i v => ⟨fun hlo hhi hi => ?_, fun h => if_neg ?_⟩
  · exact ⟨s.quiet.setByte p i v, if_pos ⟨hlo, hhi, hi⟩, rfl, fun q j => byte_setByte ..⟩
  · rintro ⟨hlo, hhi, hi⟩
    have hlo : 2 ≤ p.toNat := hlo
    omega

/-- Settles O44: the location exists. -/
theorem driverReadHasNoEffect : Obligations.DriverReadHasNoEffect := fun _ _ _ _ hi => atLocation_eq hi

/-- Settles O45: the move writes one byte, read back as `byte_setByte` says. -/
theorem driverWritesTxCommand : Obligations.DriverWritesTxCommand :=
  fun s v => ⟨s.quiet.setByte ctrlPage offTxCommand v, rfl, rfl, fun _ _ => byte_setByte ..⟩

/-! ### The worker's pickup and the core commands (42_worker_commands.md R181 to R187) -/

theorem execWPickup_ioFinish {s : State} (hph : s.w.phase = .poll) (hst : s.sess.state = .ioFinish) :
    exec .wPickup s = .next ((s.quiet.setProto .idle).withW { s.w with cmd := s.ctx.command, phase := .mark }) :=
  (if_pos hph).trans (if_pos hst)

/-- Settles O32, by the protocol state. -/
theorem pickupFreesTheBus : Obligations.PickupFreesTheBus :=
  fun _ hph => ⟨execWPickup_ioFinish hph, fun hst => (if_pos hph).trans (if_neg hst)⟩

theorem execCmdReserved_eq {s : State} (hph : s.w.phase = .exec) {low : BitVec 2} (hcmd : s.w.cmd.toNat = 4 + low.toNat) :
    exec (.cmdReserved low) s = .next s.quiet.reservedCommand :=
  if_pos ⟨hph, BitVec.eq_of_toNat_eq (hcmd.trans (reservedCode_toNat low).symm)⟩

theorem execCmdExt_eq {s : State} {code : Byte} (hph : s.w.phase = .exec) (hcmd : s.w.cmd = code) (hcode : firstExtCode ≤ code.toNat) :
    exec (.cmdExt code) s = .next s.quiet.extStep :=
  if_pos ⟨⟨hph, hcmd⟩, hcode⟩

/-- Settles O34: the row of the code in `w.cmd` is what `runCommand` does with it. -/
theorem execDispatchesOnCode : Obligations.ExecDispatchesOnCode := by
  intro s hph
  have hcode : ∀ c : Byte, s.w.cmd.toNat = c.toNat → s.w.cmd = c := fun c h => BitVec.eq_of_toNat_eq h
  refine ⟨_, execWExec_eq s hph, fun h0 => ?_, fun h1 => ?_, fun h2 => ?_, fun h3 => ?_, fun h4 h8 => ?_, fun h8 => ?_⟩
  · rw [runCommand_reserved (s := s.quiet) (by rw [quiet_w, h0]; decide) (.inl h0)]
    rfl
  · have hcmd : s.w.cmd = cmdCodeSetPage := hcode _ h1
    rw [runCommand_setPage (s := s.quiet) hcmd]
    exact if_pos ⟨hph, hcmd⟩
  · have hcmd : s.w.cmd = cmdCodeSetDevAddr := hcode _ h2
    rw [runCommand_setDevAddr (s := s.quiet) hcmd]
    exact if_pos ⟨hph, hcmd⟩
  · have hcmd : s.w.cmd = cmdCodeReset := hcode _ h3
    rw [runCommand_reset (s := s.quiet) hcmd]
    exact if_pos ⟨hph, hcmd⟩
  · rw [runCommand_reserved (s := s.quiet) h8 (.inr h4)]
    refine execCmdReserved_eq hph ?_
    rw [BitVec.toNat_setWidth]
    omega
  · rw [runCommand_ext (s := s.quiet) h8]
    exact execCmdExt_eq hph rfl h8

theorem pageArgOk_iff (c : Config) (v : Byte) : c.pageArgOk v = true ↔ 0 < v.toNat ∧ v.toNat < c.pageCount := by
  simp [Config.pageArgOk]

/-- A parameter that is neither zero nor even is odd. -/
theorem addrArgOk_iff (v : Byte) : addrArgOk v = true ↔ ¬ v.toNat % 2 = 0 := by
  have hzero : v = 0 → v.toNat % 2 = 0 := by
    rintro rfl
    rfl
  simp only [addrArgOk, getLsbD_zero_eq, Bool.not_eq_true', Bool.or_eq_false_iff, beq_eq_false_iff_ne]
  constructor
  · intro h
    simpa using h.2
  · exact fun h => ⟨fun h0 => h (hzero h0), by simpa using h⟩

/-- Settles O35: the parameter is accepted as `pageArgOk_iff` says. -/
theorem setPageCommand : Obligations.SetPageCommand := by
  intro s hph hcmd
  have hexec : exec .cmdSetPage s = .next s.quiet.setPage := if_pos ⟨hph, hcmd⟩
  rw [hexec, setPage_quiet]
  simp only [pageArgOk_iff]
  rfl

/-- Settles O36: the parameter is accepted as `addrArgOk_iff` says, and stored as `storeAddr_quiet` says. -/
theorem setDevAddrCommand : Obligations.SetDevAddrCommand := by
  intro s hph hcmd
  have hexec : exec .cmdSetDevAddr s = .next s.quiet.setDevAddr := if_pos ⟨hph, hcmd⟩
  have hparam : s.param0 = s.byte 0 3 := rfl
  rw [hexec, setDevAddr_quiet, storeAddr_quiet, hparam]
  by_cases heven : (s.byte 0 3).toNat % 2 = 0
  · rw [if_neg (fun hok => (addrArgOk_iff _).mp hok heven), if_pos heven]
    rfl
  · rw [if_pos ((addrArgOk_iff _).mpr heven), if_neg heven]
    by_cases hsame : s.nvm = s.byte 0 3
    · rw [if_pos hsame, if_pos hsame, ← hsame]
      rfl
    · rw [if_neg hsame, if_neg hsame]
      rfl

/-- Settles O37: the command is the reset with the Restart output. -/
theorem resetCommandRestarts : Obligations.ResetCommandRestarts :=
  fun s hph hcmd => ⟨s.restart, rfl, if_pos ⟨hph, hcmd⟩, rfl⟩

/-- Settles O38: the row's code is 4 plus its two bits. -/
theorem reservedCodeIsErrorCommand : Obligations.ReservedCodeIsErrorCommand := fun _ _ hph hcmd => execCmdReserved_eq hph hcmd

/-! ### The table scan (42_worker_commands.md R188, R189) -/

theorem selects_iff (e : CmdEntry) (cmd : Byte) : e.selects cmd = true ↔ e.mask &&& cmd = e.pattern := beq_iff_eq

/-- Inside no handler, a matching entry's handler is invoked. -/
theorem extStep_match {s : State} (hfree : s.w.hung = false) {e : CmdEntry} (he : s.cfg.cmdTable[s.w.k]? = some e)
    (hsel : e.selects s.w.cmd = true) : s.quiet.extStep = s.quiet.invoke e := by
  rw [extStep_quiet, hfree, he]
  exact if_pos hsel

theorem extStep_skip {s : State} (hfree : s.w.hung = false) {e : CmdEntry} (he : s.cfg.cmdTable[s.w.k]? = some e)
    (hsel : e.selects s.w.cmd = false) : s.quiet.extStep = s.quiet.nextEntry := by
  rw [extStep_quiet, hfree, he]
  show (if e.selects s.w.cmd = true then _ else _) = _
  rw [hsel]
  rfl

/-- Past the table the scan closes with the last return, or ErrorCommand. -/
theorem extStep_close {s : State} (hfree : s.w.hung = false) (hend : s.cfg.cmdTable[s.w.k]? = none) :
    s.quiet.extStep =
      s.quiet.withW { s.w with result := if s.w.hit then s.w.result else codeErrorCommand, phase := .report } := by
  rw [extStep_quiet, hfree, hend]
  cases s.w.hit <;> rfl

/-- Settles O39, clause by clause. -/
theorem extensionStep : Obligations.ExtensionStep := by
  rintro s _ hph rfl hcode
  have hexec : exec (.cmdExt s.w.cmd) s = .next s.quiet.extStep := execCmdExt_eq hph rfl hcode
  rw [hexec]
  refine ⟨fun hfree e he hsel => ?_, fun hfree e he hsel => ?_, fun hfree hend => ?_, fun hhung => ?_⟩
  · rw [extStep_match hfree he ((selects_iff ..).mpr hsel)]
    rfl
  · rw [extStep_skip hfree he (Bool.eq_false_iff.mpr fun h => hsel ((selects_iff ..).mp h))]
    rfl
  · rw [extStep_close hfree (List.getElem?_eq_none hend)]
    rfl
  · rw [extStep_hung s.quiet hhung]
    rfl

section Handlers

variable {n : Nat} {cmd : Byte} {e : CmdEntry} {es : List CmdEntry}

theorem allReturn_nil : AllReturn n cmd [] := by
  intro j x hx
  simp at hx

theorem allReturn_cons (h : Config.handlerReturns n e.handler cmd = true) (hs : AllReturn (n + 1) cmd es) :
    AllReturn n cmd (e :: es) := by
  intro j x hx
  cases j with
  | zero =>
    obtain rfl : e = x := by simpa using hx
    exact h
  | succ j =>
    rw [show n + (j + 1) = n + 1 + j by omega]
    exact hs j x (by simpa using hx)

/-- The first handler's return is the result so far for the others, which are invoked from the next draw on. -/
theorem lastReturn_cons (d : Nibble) :
    lastReturn n cmd d (e :: es) = lastReturn (n + 1) cmd (Config.handlerReturn n e.handler cmd) es := by
  cases es with
  | nil => rfl
  | cons x es =>
    simp only [lastReturn, List.getLast?_cons, List.length_cons, Nat.add_sub_cancel, Option.getD_some]
    rw [show n + (es.length + 1) = n + 1 + es.length by omega]

end Handlers

/-- The entries of `es` that match the worker's code. -/
def State.matching (s : State) (es : List CmdEntry) : List CmdEntry := es.filter fun e => e.mask &&& s.w.cmd == e.pattern

theorem matching_cons_of_selects {s : State} {e : CmdEntry} (h : e.selects s.w.cmd = true) (es : List CmdEntry) :
    s.matching (e :: es) = e :: s.matching es := List.filter_cons_of_pos h

theorem matching_cons_of_skips {s : State} {e : CmdEntry} (h : e.selects s.w.cmd = false) (es : List CmdEntry) :
    s.matching (e :: es) = s.matching es := List.filter_cons_of_neg (by rw [← CmdEntry.selects, h]; decide)

/-- What the rest `es` of a scan leaves of `s` when every matching handler returns, the closing step included. -/
structure State.ScanReports (s : State) (es : List CmdEntry) (t : State) : Prop where
  returns : AllReturn s.draws s.w.cmd (s.matching es)
  frame : t =
    { s with
      w :=
        { s.w with
          result := lastReturn s.draws s.w.cmd (if s.w.hit then s.w.result else codeErrorCommand) (s.matching es)
          phase := .report
          k := s.w.k + es.length
          hit := s.w.hit || !(s.matching es).isEmpty }
      draws := s.draws + (s.matching es).length
      out := {} }

/-- What the rest `es` of a scan leaves of `s` when the handler of its entry `j` never returns. -/
structure State.ScanHangs (s : State) (es : List CmdEntry) (j : Nat) (e : CmdEntry) (t : State) : Prop where
  entry : es[j]? = some e
  selected : e.selects s.w.cmd = true
  returns : AllReturn s.draws s.w.cmd (s.matching (es.take j))
  never : Config.handlerReturns (s.draws + (s.matching (es.take j)).length) e.handler s.w.cmd = false
  frame : t =
    { s with
      w :=
        { s.w with
          result := lastReturn s.draws s.w.cmd s.w.result (s.matching (es.take j))
          k := s.w.k + j
          hit := s.w.hit || !(s.matching (es.take j)).isEmpty
          hung := true }
      draws := s.draws + (s.matching (es.take j)).length + 1
      out := {} }

/-- What the rest `es` of a scan can leave of `s`. -/
def State.ScansTo (s : State) (es : List CmdEntry) (t : State) : Prop := s.ScanReports es t ∨ ∃ j e, s.ScanHangs es j e t

theorem scansTo_nil (s : State) :
    s.ScansTo [] (s.quiet.withW { s.w with result := if s.w.hit then s.w.result else codeErrorCommand, phase := .report }) := by
  refine .inl ⟨allReturn_nil, ?_⟩
  simp [State.matching, State.withW, quiet_eq, lastReturn]

/-- An entry that does not match is passed over. -/
theorem scansTo_cons_of_skips {s t : State} {e : CmdEntry} {es : List CmdEntry} (hsel : e.selects s.w.cmd = false)
    (h : s.quiet.nextEntry.ScansTo es t) : s.ScansTo (e :: es) t := by
  rcases h with ⟨hret, hframe⟩ | ⟨j, x, hx, hxsel, hret, hnever, hframe⟩
  · refine .inl ⟨by rw [matching_cons_of_skips hsel]; exact hret, ?_⟩
    rw [matching_cons_of_skips hsel, hframe, List.length_cons, Nat.add_comm es.length, ← Nat.add_assoc]
    rfl
  · have htake : s.matching ((e :: es).take (j + 1)) = s.matching (es.take j) := matching_cons_of_skips hsel _
    refine .inr ⟨j + 1, x, hx, hxsel, by rw [htake]; exact hret, by rw [htake]; exact hnever, ?_⟩
    rw [htake, hframe, Nat.add_comm j, ← Nat.add_assoc]
    rfl

/-- A matching entry whose handler returns is invoked, and the scan goes on. -/
theorem scansTo_cons_of_returns {s t : State} {e : CmdEntry} {es : List CmdEntry} (hsel : e.selects s.w.cmd = true)
    (hreturns : Config.handlerReturns s.draws e.handler s.w.cmd = true) (h : (s.quiet.invoke e).ScansTo es t) :
    s.ScansTo (e :: es) t := by
  have hworker : (s.quiet.invoke e).w = { s.w with result := Config.handlerReturn s.draws e.handler s.w.cmd, hit := true, k := s.w.k + 1 } :=
    afterHandler_returns s.quiet hreturns
  have hmatching : ∀ l, (s.quiet.invoke e).matching l = s.matching l := by
    intro l
    rw [State.matching, hworker]
    rfl
  have hdraws : ∀ n, s.draws + 1 + n = s.draws + (n + 1) := by omega
  have hk : ∀ n, s.w.k + 1 + n = s.w.k + (n + 1) := by omega
  rcases h with ⟨hret, hframe⟩ | ⟨j, x, hx, hxsel, hret, hnever, hframe⟩
  · rw [hmatching, hworker] at hret
    refine .inl ⟨by rw [matching_cons_of_selects hsel]; exact allReturn_cons hreturns hret, ?_⟩
    rw [hframe, hworker, hmatching, matching_cons_of_selects hsel, lastReturn_cons, List.isEmpty_cons, Bool.not_false, Bool.or_true,
      List.length_cons, List.length_cons, ← hdraws (s.matching es).length, ← hk es.length]
    rfl
  · have htake : s.matching ((e :: es).take (j + 1)) = e :: s.matching (es.take j) := matching_cons_of_selects hsel _
    rw [hmatching, hworker] at hret hnever
    rw [hworker] at hxsel
    refine .inr ⟨j + 1, x, hx, hxsel, by rw [htake]; exact allReturn_cons hreturns hret, ?_, ?_⟩
    · rw [htake, List.length_cons, ← hdraws (s.matching (es.take j)).length]
      exact hnever
    · rw [htake, hframe, hworker, hmatching, lastReturn_cons, List.isEmpty_cons, Bool.not_false, Bool.or_true, List.length_cons,
        ← hdraws (s.matching (es.take j)).length, ← hk j]
      rfl

theorem execWExec_ext {s : State} (hph : s.w.phase = .exec) (hcmd : firstExtCode ≤ s.w.cmd.toNat) :
    exec .wExec s = .next s.quiet.extStep := by
  rw [execWExec_eq s hph, runCommand_ext (s := s.quiet) hcmd]

/-- Inside a handler the worker's further steps change nothing. -/
theorem execAll_wExec_hung {s : State} (hph : s.w.phase = .exec) (hcmd : firstExtCode ≤ s.w.cmd.toNat) (hhung : s.w.hung = true)
    (n : Nat) : execAll (List.replicate (n + 1) .wExec) s = .next s.quiet := by
  have hstep : exec .wExec s = .next s.quiet := by rw [execWExec_ext hph hcmd, extStep_hung s.quiet hhung]
  induction n generalizing s with
  | zero => exact execAll_cons_next hstep
  | succ n ih =>
    have hagain : exec .wExec s.quiet = .next s.quiet := by
      rw [execWExec_ext (s := s.quiet) hph hcmd, extStep_hung s.quiet.quiet hhung]
      rfl
    exact (execAll_cons_next hstep).trans (ih (s := s.quiet) hph hcmd hhung hagain)

/-- A matching entry whose handler never returns is where the scan stays. -/
theorem scansTo_cons_of_hangs {s : State} {e : CmdEntry} {es : List CmdEntry} (hsel : e.selects s.w.cmd = true)
    (hnever : Config.handlerReturns s.draws e.handler s.w.cmd = false) : s.ScansTo (e :: es) (s.quiet.invoke e).quiet := by
  have hworker : (s.quiet.invoke e).quiet.w = { s.w with hung := true } := afterHandler_hangs s.quiet hnever
  refine .inr ⟨0, e, rfl, hsel, allReturn_nil, hnever, ?_⟩
  have hframe : (s.quiet.invoke e).quiet = { s with w := (s.quiet.invoke e).quiet.w, draws := s.draws + 1, out := {} } := rfl
  rw [hframe, hworker]
  simp [State.matching, lastReturn]

/-- The scan of the entries from `w.k` on, one step for each and the closing step, by induction on those entries. -/
theorem execAll_scans {s : State} {es : List CmdEntry} (hes : s.cfg.cmdTable.drop s.w.k = es) (hph : s.w.phase = .exec)
    (hcmd : firstExtCode ≤ s.w.cmd.toNat) (hfree : s.w.hung = false) :
    ∃ t, execAll (List.replicate (es.length + 1) .wExec) s = .next t ∧ s.ScansTo es t := by
  have hstep : exec .wExec s = .next s.quiet.extStep := execWExec_ext hph hcmd
  induction es generalizing s with
  | nil =>
    have hend : s.cfg.cmdTable[s.w.k]? = none := List.getElem?_eq_none (List.drop_eq_nil_iff.mp hes)
    rw [extStep_close hfree hend] at hstep
    exact ⟨_, execAll_cons_next hstep, scansTo_nil s⟩
  | cons e es ih =>
    have he : s.cfg.cmdTable[s.w.k]? = some e := by
      rw [← List.head?_drop, hes]
      rfl
    have hrest : s.cfg.cmdTable.drop (s.w.k + 1) = es := by
      rw [← List.tail_drop, hes]
      rfl
    cases hsel : e.selects s.w.cmd with
    | false =>
      rw [extStep_skip hfree he hsel] at hstep
      obtain ⟨t, hexec, hscan⟩ := ih (s := s.quiet.nextEntry) hrest hph hcmd hfree (execWExec_ext hph hcmd)
      exact ⟨t, (execAll_cons_next hstep).trans hexec, scansTo_cons_of_skips hsel hscan⟩
    | true =>
      rw [extStep_match hfree he hsel] at hstep
      cases hret : Config.handlerReturns s.draws e.handler s.w.cmd with
      | true =>
        have hworker : (s.quiet.invoke e).w = _ := afterHandler_returns s.quiet hret
        obtain ⟨t, hexec, hscan⟩ := ih (s := s.quiet.invoke e) (by rw [hworker]; exact hrest) (by rw [hworker]; exact hph)
          (by rw [hworker]; exact hcmd) (by rw [hworker]; exact hfree)
          (execWExec_ext (by rw [hworker]; exact hph) (by rw [hworker]; exact hcmd))
        exact ⟨t, (execAll_cons_next hstep).trans hexec, scansTo_cons_of_returns hsel hret hscan⟩
      | false =>
        have hworker : (s.quiet.invoke e).w = _ := afterHandler_hangs s.quiet hret
        have hstays := execAll_wExec_hung (s := s.quiet.invoke e) (by rw [hworker]; exact hph) (by rw [hworker]; exact hcmd)
          (by rw [hworker]) es.length
        exact ⟨_, (execAll_cons_next hstep).trans hstays, scansTo_cons_of_hangs hsel hret⟩

/-- Some entry matches exactly where the matching entries are not none. -/
theorem any_eq_not_isEmpty_matching (s : State) (es : List CmdEntry) :
    (es.any fun e => e.mask &&& s.w.cmd == e.pattern) = !(s.matching es).isEmpty := by
  rw [Bool.eq_iff_iff]
  simp [State.matching]

/-- Settles O40: the scan from the first entry, with no entry matched before it. -/
theorem extensionScanReportsLastMatch : Obligations.ExtensionScanReportsLastMatch := by
  intro s hph hcmd hk hhit hfree
  obtain ⟨t, hexec, hscan⟩ := execAll_scans (es := s.cfg.cmdTable) (by rw [hk]; rfl) hph hcmd hfree
  refine ⟨t, hexec, hscan.imp ?_ ?_⟩
  · rintro ⟨hret, hframe⟩
    rw [hhit, hk, Nat.zero_add, Bool.false_or, ← any_eq_not_isEmpty_matching] at hframe
    exact ⟨hret, hframe⟩
  · rintro ⟨k, e, he, hsel, hret, hnever, hframe⟩
    rw [hhit, hk, Nat.zero_add, Bool.false_or] at hframe
    exact ⟨k, e, _, he, (selects_iff ..).mp hsel, rfl, hret, hnever, hframe⟩

end Sys2Proof.Machine

namespace Sys2Proof.Machine

/-! ### A transaction with only an address byte (40_bus_state_machine.md section 2) -/

/-- The state after an ACKed address phase. -/
def State.addressed (s : State) : State := (s.quiet.setProto .addressOrRead).respond .ack

theorem execEvAddrW_idle {s : State} (h : s.sess.state = .idle) : exec .evAddrW s = .next s.addressed :=
  (addressPhaseWithoutTransaction s .evAddrW (.inl rfl)).1 h

/-- Under the invariant an address byte selects or faults in a registered page. -/
theorem execEvDataW_selects {s : State} (h : s.Inv) (hst : s.sess.state = .addressOrRead) (b : Byte) :
    ∃ ap a, exec (.evDataW b) s = .next (if a.toNat < s.cfg.len ap then s.selected ap a else s.quiet.enterError) := by
  obtain ⟨_, hpage, _⟩ := h
  refine ⟨_, _, (execEvDataW_addressOrRead hst b).trans (selectLocation_eq ?_ _)⟩
  unfold Config.translate
  split
  · exact ctrlPage_lt_pageCount s.cfg
  · exact hpage

/-- An address byte in range leaves a state in which nothing is stored. -/
theorem selected_state (s : State) (ap a : Byte) :
    (s.selected ap a).sess.state = .readWriteFirstByte ∨ (s.selected ap a).sess.state = .readOnly := by
  rw [selected_eq]
  simp only
  split <;> simp

/-- Settles O56: the address byte selects or faults, and either ends in Idle with nothing stored. -/
theorem addressOnlyTransactionPostsNothing : Obligations.AddressOnlyTransactionPostsNothing := by
  intro s b hinv hidle
  have haddr := execEvAddrW_idle hidle
  obtain ⟨ap, a, hbyte⟩ := execEvDataW_selects ((exec_effect haddr).inv hinv) rfl b
  rw [execAll_cons_next haddr, execAll_cons_next hbyte]
  split
  · have hstop := (stopWithoutStoredByte (s.addressed.selected ap a)).1 (by rcases selected_state s.addressed ap a with h | h <;> simp [h])
    refine ⟨_, execAll_cons_next hstop, ?_⟩
    simp only [hidle]
    rfl
  · have hstop := (stopWithoutStoredByte s.addressed.quiet.enterError).1 (.inr (.inr (.inr rfl)))
    refine ⟨_, execAll_cons_next hstop, ?_⟩
    simp only [hidle]
    rfl

/-! ### What the bus operations leave of each register -/

section Fields

variable (s : State) (ap a b c : Byte) (l : Loc)

@[simp] theorem selected_cfg : (s.selected ap a).cfg = s.cfg := rfl
@[simp] theorem selected_page : (s.selected ap a).sess.page = s.sess.page := rfl
@[simp] theorem selected_activePage : (s.selected ap a).sess.activePage = ap := rfl
@[simp] theorem selected_offset : (s.selected ap a).sess.offset = a := rfl
@[simp] theorem selected_ctx : (s.selected ap a).ctx = s.ctx := rfl
@[simp] theorem selected_nvm : (s.selected ap a).nvm = s.nvm := rfl
@[simp] theorem selected_devAddr : (s.selected ap a).devAddr = s.devAddr := rfl
@[simp] theorem selected_w : (s.selected ap a).w = s.w := rfl
@[simp] theorem selected_byte (p i : Byte) : (s.selected ap a).byte p i = s.byte p i := rfl

@[simp] theorem stored_cfg : (s.stored b).cfg = s.cfg := rfl
@[simp] theorem stored_state : (s.stored b).sess.state = .readWrite := rfl
@[simp] theorem stored_page : (s.stored b).sess.page = s.sess.page := rfl
@[simp] theorem stored_activePage : (s.stored b).sess.activePage = s.sess.activePage := rfl
@[simp] theorem stored_offset : (s.stored b).sess.offset =
    if s.sess.offset.toNat + 1 = s.cfg.len s.sess.activePage then 0 else s.sess.offset + 1 := rfl
@[simp] theorem stored_ctx : (s.stored b).ctx = s.ctx := rfl
@[simp] theorem stored_nvm : (s.stored b).nvm = s.nvm := rfl
@[simp] theorem stored_devAddr : (s.stored b).devAddr = s.devAddr := rfl
@[simp] theorem stored_w : (s.stored b).w = s.w := rfl

@[simp] theorem takeCommand_cfg : (s.takeCommand l).cfg = s.cfg := rfl
@[simp] theorem takeCommand_page : (s.takeCommand l).sess.page = s.sess.page := rfl
@[simp] theorem takeCommand_activePage : (s.takeCommand l).sess.activePage = s.sess.activePage := rfl
@[simp] theorem takeCommand_ctx : (s.takeCommand l).ctx = s.ctx := rfl
@[simp] theorem takeCommand_nvm : (s.takeCommand l).nvm = s.nvm := rfl
@[simp] theorem takeCommand_devAddr : (s.takeCommand l).devAddr = s.devAddr := rfl
@[simp] theorem takeCommand_w : (s.takeCommand l).w = s.w := rfl

@[simp] theorem acceptPost_cfg : (s.acceptPost c).cfg = s.cfg := rfl
@[simp] theorem acceptPost_sess : (s.acceptPost c).sess = { s.sess with state := .ioFinish } := rfl
@[simp] theorem acceptPost_ctx : (s.acceptPost c).ctx = { s.ctx with command := c, lastAddress := s.sess.activePage } := rfl
@[simp] theorem acceptPost_nvm : (s.acceptPost c).nvm = s.nvm := rfl
@[simp] theorem acceptPost_devAddr : (s.acceptPost c).devAddr = s.devAddr := rfl
@[simp] theorem acceptPost_w : (s.acceptPost c).w = s.w := rfl

end Fields

/-! ### SetPage end to end: the bus transaction (95_test_vectors.md S6) -/

/-- The state after `p` is written behind the command SetPage in the control page. -/
def State.setPageWritten (s : State) (p : Byte) : State :=
  ((s.addressed.selected ctrlPage offCommand).stored cmdCodeSetPage).stored p

section SetPageWritten

variable (s : State) (p : Byte)

@[simp] theorem setPageWritten_cfg : (s.setPageWritten p).cfg = s.cfg := by
  simp [State.setPageWritten, State.addressed]

@[simp] theorem setPageWritten_state : (s.setPageWritten p).sess.state = .readWrite := by
  simp [State.setPageWritten]

@[simp] theorem setPageWritten_activePage : (s.setPageWritten p).sess.activePage = ctrlPage := by
  simp [State.setPageWritten]

@[simp] theorem setPageWritten_ctx : (s.setPageWritten p).ctx = s.ctx := by
  simp [State.setPageWritten, State.addressed]

end SetPageWritten

theorem setPageWritten_byte (s : State) (p q i : Byte) :
    (s.setPageWritten p).byte q i =
      if q = 0 ∧ i = 3 then p else if q = 0 ∧ i = 2 then cmdCodeSetPage else s.byte q i := by
  unfold State.setPageWritten
  rw [stored_byte, stored_byte, selected_byte]
  rfl

theorem execAll_writes_setPage {s : State} {m : Nibble} (hm : m ∈ s.cfg.marker) (hst : s.sess.state = .idle) (p : Byte)
    (is : List Instr) :
    execAll (.evAddrW :: .evDataW (m ++ (2 : Nibble)) :: .evDataW cmdCodeSetPage :: .evDataW p :: is) s =
      execAll is (s.setPageWritten p) := by
  have hselect : exec (.evDataW (m ++ (2 : Nibble))) s.addressed = .next (s.addressed.selected ctrlPage offCommand) := by
    have hmark : m ∈ s.addressed.cfg.marker := hm
    rw [execEvDataW_addressOrRead rfl, translate_marked hmark, selectLocation_eq (ctrlPage_lt_pageCount _)]
    rfl
  have hcur : (s.addressed.selected ctrlPage offCommand).CursorOk :=
    ⟨ctrlPage_lt_pageCount s.cfg, by simp [offCommand]⟩
  have hcur' : ((s.addressed.selected ctrlPage offCommand).stored cmdCodeSetPage).CursorOk :=
    ⟨ctrlPage_lt_pageCount s.cfg, by simp [offCommand]⟩
  rw [execAll_cons_next (execEvAddrW_idle hst), execAll_cons_next hselect,
    execAll_cons_next (execEvDataW_stores hcur (.inl rfl) cmdCodeSetPage), execAll_cons_next (execEvDataW_stores hcur' (.inr rfl) p)]
  rfl

/-- What the transaction that posts SetPage with the parameter `p` leaves of `s`. -/
structure State.PostedSetPage (s : State) (p : Byte) (t : State) : Prop where
  cfg : t.cfg = s.cfg
  page : t.sess.page = s.sess.page
  state : t.sess.state = .ioFinish
  ctx : t.ctx = { s.ctx with command := cmdCodeSetPage, lastAddress := 0 }
  nvm : t.nvm = s.nvm
  devAddr : t.devAddr = s.devAddr
  phase : t.w.phase = s.w.phase
  byte : ∀ q i : Byte, t.byte q i =
    if q = 0 ∧ i = 0 then mergeStatus codeInProgress s.status
    else if q = 0 ∧ i = 2 then 0
    else if q = 0 ∧ i = 3 then p
    else s.byte q i

/-- The post of SetPage: the field's code is latched and the field cleared. -/
theorem setPageWritten_posted (s : State) (p : Byte) :
    s.PostedSetPage p (((s.setPageWritten p).quiet.takeCommand ⟨ctrlPage, offCommand⟩).acceptPost cmdCodeSetPage) := by
  have htaken : ∀ q i, ((s.setPageWritten p).quiet.takeCommand ⟨ctrlPage, offCommand⟩).byte q i =
      if q = ctrlPage ∧ i = offCommand then 0 else (s.setPageWritten p).byte q i := fun q i => by
    rw [takeCommand_byte, quiet_byte]
  have hstatus : ((s.setPageWritten p).quiet.takeCommand ⟨ctrlPage, offCommand⟩).status = s.status := by
    unfold State.status
    rw [htaken, if_neg (by decide), setPageWritten_byte, if_neg (by decide), if_neg (by decide)]
  refine ⟨?_, ?_, ?_, ?_, ?_, ?_, ?_, fun q i => ?_⟩
  iterate 7 simp [State.setPageWritten, State.addressed, ctrlPage]
  rw [acceptPost_byte, htaken, setPageWritten_byte, hstatus]
  show (if q = 0 ∧ i = 0 then _ else if q = 0 ∧ i = 2 then 0 else if q = 0 ∧ i = 3 then p else _) = _
  by_cases hfield : q = 0 ∧ i = 2
  · rw [if_pos hfield, if_pos hfield]
  · rw [if_neg hfield, if_neg hfield, if_neg hfield]

/-- The STOP after a written SetPage posts it. -/
theorem execEvStop_setPageWritten {s : State} (hidle : s.ctx.command = 0) (p : Byte) :
    ∃ t, exec .evStop (s.setPageWritten p) = .next t ∧ s.PostedSetPage p t := by
  have hfield : (s.setPageWritten p).PostsFrom ⟨ctrlPage, offCommand⟩ :=
    ⟨setPageWritten_state s p, by rw [setPageWritten_activePage]; rfl, by rw [setPageWritten_cfg, len_ctrlPage]; decide⟩
  have hpage : (s.setPageWritten p).sess.activePage.toNat < (s.setPageWritten p).cfg.pageCount := by
    rw [setPageWritten_activePage]
    exact ctrlPage_lt_pageCount _
  have hcode : (s.setPageWritten p).byte ctrlPage offCommand = cmdCodeSetPage := by
    rw [setPageWritten_byte, if_neg (by decide), if_pos (by decide)]
  have haccept := execEvStop_accepts hpage hfield (by rw [hcode]; decide) (by rw [setPageWritten_ctx, hidle])
  rw [hcode] at haccept
  exact ⟨_, haccept, setPageWritten_posted s p⟩

/-! ### SetPage end to end: the worker (42_worker_commands.md section 1) -/

/-- A second merge replaces the first one's code. -/
theorem mergeStatus_mergeStatus (c c' : Nibble) (st : Byte) : mergeStatus c (mergeStatus c' st) = mergeStatus c st := by
  rw [mergeStatus_eq_ofNat, mergeStatus_eq_ofNat, mergeStatus_eq_ofNat, BitVec.toNat_ofNat]
  congr 1
  omega

/-- The sticky page that SetPage leaves. -/
def State.pageSet (s : State) : Byte := if s.cfg.pageArgOk s.param0 then s.param0 else s.sess.page

/-- The status code that SetPage reports. -/
def State.pageCode (s : State) : Nibble := if s.cfg.pageArgOk s.param0 then codeSuccess else codeErrorArgument

theorem setPage_eq (s : State) : s.setPage = (s.withSess { s.sess with page := s.pageSet }).finish s.pageCode := by
  unfold State.setPage State.pageSet State.pageCode
  split <;> rfl

theorem execWExec_setPage {s : State} (hph : s.w.phase = .exec) (hcmd : s.w.cmd = cmdCodeSetPage) :
    exec .wExec s = .next ((s.quiet.withSess { s.sess with page := s.pageSet }).finish s.pageCode) := by
  rw [execWExec_eq s hph, runCommand_setPage (s := s.quiet) hcmd, setPage_eq]
  rfl

/-- What the pickup and the mark leave of `s`. -/
structure State.Marked (s t : State) : Prop where
  cfg : t.cfg = s.cfg
  sess : t.sess = { s.sess with state := .idle }
  ctx : t.ctx = s.ctx
  nvm : t.nvm = s.nvm
  devAddr : t.devAddr = s.devAddr
  phase : t.w.phase = .exec
  cmd : t.w.cmd = s.ctx.command
  byte : ∀ q i : Byte, t.byte q i = if q = 0 ∧ i = 0 then mergeStatus codeInProgress s.status else s.byte q i

theorem execAll_marks {s : State} (hph : s.w.phase = .poll) (hst : s.sess.state = .ioFinish) (is : List Instr) :
    ∃ t, execAll (.wPickup :: .wMark :: is) s = execAll is t ∧ s.Marked t := by
  have hpick := execWPickup_ioFinish hph hst
  have hmark := execWMark_eq (s := (s.quiet.setProto .idle).withW { s.w with cmd := s.ctx.command, phase := .mark }) (by simp)
  refine ⟨_, (execAll_cons_next hpick).trans (execAll_cons_next hmark), ?_⟩
  exact ⟨by simp, by simp, by simp [merge_ctx], by simp, by simp, rfl, rfl, merge_withW_byte _ _ _⟩

theorem State.Marked.pageSet {s t : State} (h : s.Marked t) : t.pageSet = s.pageSet := by
  have hparam : t.param0 = s.param0 := h.byte 0 3
  unfold State.pageSet
  rw [h.cfg, hparam, h.sess]

theorem State.Marked.pageCode {s t : State} (h : s.Marked t) : t.pageCode = s.pageCode := by
  have hparam : t.param0 = s.param0 := h.byte 0 3
  unfold State.pageCode
  rw [h.cfg, hparam]

theorem pageCode_terminal (s : State) : s.pageCode ≠ codeInProgress := by
  unfold State.pageCode
  split <;> decide

/-- What the worker's four steps on a posted SetPage leave of `s`. -/
structure State.WorkedSetPage (s t : State) : Prop where
  sess : t.sess = { s.sess with state := .idle, page := s.pageSet }
  ctx : t.ctx = { s.ctx with lastCommand := s.ctx.command, command := 0 }
  nvm : t.nvm = s.nvm
  devAddr : t.devAddr = s.devAddr
  byte : ∀ q i : Byte, t.byte q i = if q = 0 ∧ i = 0 then mergeStatus s.pageCode s.status else s.byte q i

theorem execAll_works_setPage {s : State} (hph : s.w.phase = .poll) (hst : s.sess.state = .ioFinish)
    (hcmd : s.ctx.command = cmdCodeSetPage) :
    ∃ t, execAll [.wPickup, .wMark, .wExec, .wReport] s = .next t ∧ s.WorkedSetPage t := by
  obtain ⟨u, hmarks, hu⟩ := execAll_marks hph hst [.wExec, .wReport]
  have hstatus : u.status = mergeStatus codeInProgress s.status := hu.byte 0 0
  have hexec := execWExec_setPage hu.phase (hu.cmd.trans hcmd)
  have hreport := execWReport_eq (s := (u.quiet.withSess { u.sess with page := u.pageSet }).finish u.pageCode) (by simp)
  refine ⟨_, hmarks.trans ((execAll_cons_next hexec).trans (execAll_cons_next hreport)), ?_, ?_, ?_, ?_, fun q i => ?_⟩
  · simp [hu.sess, hu.pageSet]
  · simp [merge_ctx, hu.ctx, pageCode_terminal]
  · simp [hu.nvm]
  · simp [hu.devAddr]
  · refine (merge_withW_byte _ _ _ q i).trans ?_
    show (if q = 0 ∧ i = 0 then mergeStatus u.pageCode u.status else u.byte q i) = _
    rw [hu.pageCode, hstatus, mergeStatus_mergeStatus, hu.byte]
    by_cases h : q = 0 ∧ i = 0
    · rw [if_pos h, if_pos h]
    · rw [if_neg h, if_neg h, if_neg h]

/-- Settles O57: the transaction posts the command, the worker's steps carry it out. -/
theorem setPageEndToEnd : Obligations.SetPageEndToEnd := by
  intro s m p hm hst hidle hph
  obtain ⟨u, hpost, hu⟩ := execEvStop_setPageWritten hidle p
  have hcmd : u.ctx.command = cmdCodeSetPage := by rw [hu.ctx]
  obtain ⟨t, hwork, ht⟩ := execAll_works_setPage (hu.phase.trans hph) hu.state hcmd
  have hparam : u.param0 = p := hu.byte 0 3
  have hstatus : u.status = mergeStatus codeInProgress s.status := hu.byte 0 0
  refine ⟨t, ?_, ?_, ?_, ?_, ht.nvm.trans hu.nvm, ht.devAddr.trans hu.devAddr, fun q i => ?_⟩
  · exact (execAll_writes_setPage hm hst p _).trans ((execAll_cons_next hpost).trans hwork)
  · rw [ht.sess]
    show u.pageSet = _
    simp only [State.pageSet, hparam, hu.cfg, hu.page, pageArgOk_iff]
  · rw [ht.sess]
  · rw [ht.ctx, hu.ctx]
    rfl
  · rw [ht.byte, hstatus, mergeStatus_mergeStatus, hu.byte]
    by_cases h : q = 0 ∧ i = 0
    · rw [if_pos h, if_pos h]
      simp only [State.pageCode, hparam, hu.cfg, pageArgOk_iff]
      split <;> rfl
    · rw [if_neg h, if_neg h, if_neg h]

end Sys2Proof.Machine
